-- ==== Sys2Proof/Word.lean ====
section
/-! DEFINITION. The word types of the OJ-416 and the numbers that name its parts. -/

namespace Sys2Proof

/-- One byte. -/
abbrev Byte := BitVec 8

/-- A 32-bit register value. -/
abbrev Word32 := BitVec 32

/-- A host address (64 bits, Table 11-1). -/
abbrev HostAddr := BitVec 64

/-- One 64-bit lane of a cell (R2). -/
abbrev Lane := BitVec 64

/-- The 16 bytes of a cell, an operand, a mask or a compare value as one 128-bit value (R2). Byte `k` is bits
`8 k` to `8 k + 7`. -/
abbrev CellValue := BitVec 128

/-- A 64-byte slot of a request ring or of the admin ring (Chapter 11). Byte `k` is bits `8 k` to `8 k + 7`. -/
abbrev Slot := BitVec 512

/-- A 32-byte completion record (Table 11-4). Byte `k` is bits `8 k` to `8 k + 7`. -/
abbrev RecordBytes := BitVec 256

/-- The 48-bit count of microseconds (R75). -/
abbrev Time := BitVec 48

/-- Request ring 0 to 7. -/
abbrev RingId := Fin 8

/-- Completion ring 0 to 3. -/
abbrev CRingId := Fin 4

/-- Hold entry H0 to H255 (R45). -/
abbrev EntryId := Fin 256

/-- Cell C0 to C4095 (R1). -/
abbrev CellId := Fin 4096

/-- Read place 0 to 15 (R170). -/
abbrev PlaceId := Fin 16

/-- Interrupt vector 0 to 4 (R147). -/
abbrev VectorId := Fin 5

end Sys2Proof
end

