-- ==== Sys2Proof/Syntax.lean ====
section
/-! DEFINITION. The commands of the OJ-416: one constructor for each row of the table of operations and events. -/

namespace Sys2Proof

/-- What the host can set in the part's PCI Express configuration space (R173, R176). A CONFIGURATION_SPACE_WRITE
leaves the space holding exactly this. -/
structure ConfigSpace where
  /-- The part may issue reads and posted writes (R173). -/
  busMaster : Bool
  /-- Register accesses reach the part (R173). -/
  memorySpace : Bool
  /-- Messages leave instead of being dropped (R176). -/
  msiEnable : Bool
  /-- The base-2 logarithm of the number of messages enabled: 1, 2, 4 or 8 (R176). -/
  msiLog2 : Fin 4
  /-- The message address the host placed (R176). Its width, 64 bits, is the model's: PRESUMED, log entry 40. -/
  msiAddress : HostAddr
  /-- The message data the host placed (R176). Its width, 16 bits, is the model's: PRESUMED, log entry 40. -/
  msiData : BitVec 16
  deriving DecidableEq, Repr

/-- The outcome lists of the part: four completion rings and the admin completion area (R134). -/
inductive ListId where
  | admin
  | ring (c : CRingId)
  deriving DecidableEq, Repr

/-- The commands. A ring argument is the request ring the step belongs to, a place argument the read place that
returns, a word argument the 32-bit value the host writes. A read of the register window names its first byte, by its
offset in the window, and its byte count: TIME LOW is at 0x20 to 0x23 (log entry 24). -/
inductive Instr where
  -- resets and device states
  | powerOnReset
  | linkReset (midOperation : Bool)
  | controlEnable (w : Word32)
  | controlReset (w : Word32) (midOperation : Bool)
  | resetValuesTaken
  -- register accesses
  | faultWrite (w : Word32)
  | adminBaseLowWrite (w : Word32)
  | adminBaseHighWrite (w : Word32)
  | adminSizeWrite (w : Word32)
  | requestRingProducerPost (w : Word32)
  | adminProducerPost (w : Word32)
  | completionConsumerPost (w : Word32)
  | adminCompletionConsumerPost (w : Word32)
  | timeLowRead (first count : Nat)
  | registerWriteIgnored (offset size : Nat) (w : Word32)
  -- time
  | microsecondTick
  | expiry
  | waitEntryTimeout (r : RingId)
  | holdoffExpiry (c : CRingId)
  | readTimeout (p : PlaceId)
  -- reads from host memory
  | fetchReadIssue
  | fetchReadReturn (p : PlaceId) (data : List Slot)
  | fetchReadFault (p : PlaceId)
  | adminFetchReturn (p : PlaceId) (data : List Slot)
  | adminFetchReadFault (p : PlaceId)
  | bulkDataReadIssue
  | bulkDataReturn (p : PlaceId) (data : List CellValue)
  | bulkDataFault (p : PlaceId)
  -- requests of the request rings and their cell-port operations
  | nop (r : RingId)
  | unknownKind (r : RingId)
  | update (r : RingId)
  | updateOperation (r : RingId)
  | hold (r : RingId)
  | holdArrival (r : RingId)
  | holdRetry (r : RingId)
  | scanStep
  | bulkRead (r : RingId)
  | bulkReadCell (r : RingId)
  | bulkWrite (r : RingId)
  | bulkWriteCell (r : RingId)
  | cancel (r : RingId)
  | fetchEventEntry (r : RingId)
  | drainEnd (r : RingId)
  -- completions and posted writes
  | completionRecordWrite (l : ListId)
  | heldMessageRelease
  | postedWriteDepart
  -- admin requests
  | adminNop
  | adminUnknownKind
  | configureRequestRing
  | configureCompletionRing
  | startRing
  | stopRing
  | resetRing
  | resetCompletionRing
  | cancelHolds
  | clearCells
  | clearCellsCell
  | readStatus
  -- configuration space
  | configurationSpaceWrite (cfg : ConfigSpace)
  deriving DecidableEq, Repr

end Sys2Proof
end

