-- ==== Sys2Proof/Config.lean ====
section
/-! DEFINITION. The quantities of the part that its rules fix (Table 0-1). No value of the part is left free. -/

namespace Sys2Proof.Config

/-- Cells in the Cell Store (R1). -/
abbrev cellCount : Nat := 4096

/-- Slots of a request ring's prefetch buffer (R102). -/
abbrev prefetchSlots : Nat := 4

/-- Slots of the admin ring's prefetch buffer (R151). -/
abbrev adminPrefetchSlots : Nat := 2

/-- Writes the posted-write queue can hold (R174). -/
abbrev postedWrites : Nat := 16

/-- Ticks after which an unanswered read returns a fault (R170). -/
abbrev readTimeoutTicks : Nat := 50000

/-- The timeout that gives a hold no deadline (R29). -/
abbrev noDeadline : BitVec 32 := 0xFFFFFFFF

/-- The value of IDENT (R177, Table 11-13). -/
abbrev identValue : Word32 := 0x08C10416

end Sys2Proof.Config
end

