-- ==== Sys2Proof/Machine/State.lean ====
section
/-! DEFINITION. The state of the part as plain data, the reasons a step can stop, and the state after a power-on
reset. Each field names the rule that gives it; INVENTORY.md lists them all. -/

namespace Sys2Proof.Machine

/-- Why a step stops with a fault. -/
inductive Fault where
  /-- Raised by a cell of a bulk transfer or of a CLEAR CELLS whose index is 4096 or above: the Cell Store has no
  such cell (R1). Safe: validation (R32, R129) keeps every run that starts at reset from it. -/
  | cellOutsideStore
  deriving DecidableEq, Repr

/-- Why a command is refused. -/
inductive Refusal where
  /-- Raised by the dispatch for a command without a meaning. Safe. No command is left so. -/
  | notModelled (mnemonic : String)
  deriving DecidableEq, Repr

/-! ### Codes and small types -/

/-- The device states (R162 to R167). -/
inductive DeviceState where
  | idle | running | halted | resetting
  deriving DecidableEq, Repr

/-- The request ring states (Table 5-2). -/
inductive RingState where
  | unconfigured | ready | active | draining | stopped | faulted
  deriving DecidableEq, Repr

/-- The completion statuses (Table 0-6). -/
inductive Status where
  | ok | notMet | timeout | cancelled | aborted | badRequest | denied | quota | readFault | badConfig | ringState
  deriving DecidableEq, Repr

/-- The ops (R4 to R12, Table 11-7). -/
inductive Op where
  | read | store | add | set | clear | flip | merge | swap | cswap | max | min | none
  deriving DecidableEq, Repr

/-- The scopes (R3). -/
inductive Scope where
  | lane0 | lane1 | pair | whole
  deriving DecidableEq, Repr

/-- The relations of a condition (R26). -/
inductive Relation where
  | eq | ne | geu | ltu
  deriving DecidableEq, Repr

/-- The lane selectors of a condition (R25). -/
inductive LaneSel where
  | lane0 | lane1 | whole
  deriving DecidableEq, Repr

/-- The kinds of a request ring's record (Table 11-6). -/
inductive RequestKind where
  | nop | update | hold | bulkRead | bulkWrite | cancel
  deriving DecidableEq, Repr

/-- The kinds of an admin record (Table 11-6). -/
inductive AdminKind where
  | nop | configureRequestRing | configureCompletionRing | startRing | stopRing | resetRing | resetCompletionRing
  | cancelHolds | clearCells | readStatus
  deriving DecidableEq, Repr

/-- The result flags of an operation (R13). -/
structure Flags where
  changed : Bool
  wrap : Bool
  matched : Bool
  deriving DecidableEq, Repr

/-- All three flags clear (R13). -/
def Flags.none : Flags := ⟨false, false, false⟩

/-- What an action does to the cells: the store after it, its flags, and the target cell before it (R13, R14). -/
structure ActionResult where
  mem : List Host.Cell
  flags : Flags
  old : CellValue
  deriving DecidableEq, Repr

/-! ### Requests -/

/-- The update of a cell that an UPDATE or a hold asks for (R3, R4). -/
structure Action where
  op : Op
  scope : Scope
  target : CellId
  a : CellValue
  b : CellValue
  deriving DecidableEq, Repr

/-- A condition (Table 2-1). -/
structure Condition where
  cell : CellId
  sel : LaneSel
  rel : Relation
  mask : CellValue
  value : CellValue
  deriving DecidableEq, Repr

/-- The fields of a first slot that every kind uses (Table 11-1): the kind byte as read, the tag and the flags. -/
structure Header where
  kind : Byte
  tag : BitVec 16
  fence : Bool
  quiet : Bool
  ret : Bool
  deriving DecidableEq, Repr

/-- The fields that a validated request's kind uses (Tables 11-1 and 11-2). -/
inductive Body where
  | nop
  | update (act : Action)
  | hold (act : Action) (cond : Condition) (timeout : BitVec 32)
  | bulkRead (first count : Nat) (host : HostAddr)
  | bulkWrite (first count : Nat) (host : HostAddr)
  | cancel (value mask : BitVec 16)
  deriving DecidableEq, Repr

/-- A validated request held by a ring context (R107). -/
structure Request where
  header : Header
  body : Body
  deriving DecidableEq, Repr

/-- A decided outcome (R111, R154); the source ring and the ring head are added at the write (R141). -/
structure Report where
  status : Status
  kind : Byte
  tag : BitVec 16
  flags : Flags
  value : Option CellValue
  count : Nat
  endTime : BitVec 32
  deriving DecidableEq, Repr

/-! ### Hold Table and Wake Scan -/

/-- The result of an ENDING entry (Table 3-1). -/
structure HoldResult where
  status : Status
  flags : Flags
  value : Option CellValue
  endTime : BitVec 32
  deriving DecidableEq, Repr

/-- ARMED, or ENDING with its result (R46). -/
inductive EntryState where
  | armed
  | ending (res : HoldResult)
  deriving DecidableEq, Repr

/-- A hold entry that is not FREE (Table 3-1). -/
structure HoldEntry where
  state : EntryState
  origin : RingId
  generation : BitVec 8
  tag : BitVec 16
  quiet : Bool
  ret : Bool
  cring : CRingId
  cond : Condition
  act : Action
  deadline : Option Time
  deriving DecidableEq, Repr

/-- The Wake Scan: IDLE, or SCANNING a current cell with a position in its watch list (R63). -/
inductive Scan where
  | idle
  | scanning (cell : CellId) (pos : EntryId)
  deriving DecidableEq, Repr

/-- A requester of the Cell Port (R18). -/
inductive Requester where
  | scan
  | admin
  | ring (r : RingId)
  deriving DecidableEq, Repr

/-! ### Request rings and contexts -/

/-- The configuration items of a request ring (Table 5-1). -/
structure RingConfig where
  base : HostAddr
  size : Nat
  cring : CRingId
  weight : Nat
  windowBase : Nat
  windowCount : Nat
  quota : Nat
  deriving DecidableEq, Repr

/-- A request ring (R92, R99 to R102). A slot of the buffer is `none` while requested and `some` once arrived. -/
structure RequestRing where
  state : RingState
  config : RingConfig
  producer : Nat
  fetch : Nat
  consumer : Nat
  generation : BitVec 8
  buffer : List (Option Slot)
  deriving DecidableEq, Repr

/-- The work state of a ring context with the request or the outcome it holds (Table 5-4). -/
inductive Work where
  | empty
  | waitFence (q : Request)
  | waitEntry (q : Request) (deadline : Option Time) (ready : Bool)
  | running (q : Request)
  | loading (q : Request) (issued : Bool)
  | reporting (o : Report)
  deriving DecidableEq, Repr

/-- A ring context (R107, R119, R125). `event` is the pending-event mark with the end time of the fault (R105). -/
structure RingContext where
  work : Work
  event : Option (BitVec 32)
  staging : List Host.Cell
  progress : Nat
  changedMark : Bool
  deriving DecidableEq, Repr

/-! ### Completions -/

/-- What an outcome list refers to (R134). -/
inductive Source where
  | entry (e : EntryId)
  | ring (r : RingId)
  | admin
  deriving DecidableEq, Repr

/-- A completion ring (R131, R134, R145). `timer` is `none` when stopped. -/
structure CompletionRing where
  active : Bool
  base : HostAddr
  size : Nat
  intEnable : Bool
  threshold : Nat
  holdoff : Nat
  producer : Nat
  consumer : Nat
  phase : Bool
  unsignalled : Nat
  timer : Option Nat
  list : List Source
  deriving DecidableEq, Repr

/-! ### Administration -/

/-- The admin ring (R150, R151): its place, N, its indices and its prefetch buffer. -/
structure AdminRing where
  base : HostAddr
  size : Nat
  producer : Nat
  fetch : Nat
  consumer : Nat
  buffer : List (Option Slot)
  deriving DecidableEq, Repr

/-- The admin completion area (R132, R154). -/
structure AdminArea where
  producer : Nat
  consumer : Nat
  phase : Bool
  list : List Source
  deriving DecidableEq, Repr

/-- The admin context (R153, R159): RUNNING holds a CLEAR CELLS with its kind, tag, first cell, count, progress and
changed mark. -/
inductive AdminWork where
  | empty
  | running (kind : Byte) (tag : BitVec 16) (first count progress : Nat) (changed : Bool)
  | reporting (o : Report)
  deriving DecidableEq, Repr

/-- The three sticky bits of FAULT (R166). -/
structure FaultBits where
  adminFetch : Bool
  postError : Bool
  configError : Bool
  deriving DecidableEq, Repr

/-- A bit of FAULT (R166). -/
inductive FaultBit where
  | adminFetch | postError | configError
  deriving DecidableEq, Repr

/-! ### Host Link -/

/-- The owner of an outstanding read (R170). -/
inductive Owner where
  | fetch (r : RingId)
  | adminFetch
  | bulk (r : RingId)
  deriving DecidableEq, Repr

/-- An outstanding read (R170). `firstSlot` is the model's own note of the first slot a fetch covers, which the spec
gives by the address. -/
structure Read where
  owner : Owner
  addr : HostAddr
  length : Nat
  firstSlot : Nat
  ownerMark : BitVec 8
  deviceMark : Bool
  ticks : Nat
  deriving DecidableEq, Repr

/-- An interrupt message as it leaves on the link: the address, and the data with the message number already added.
Nothing in it says which source sent it (R176; the widths: log entry 40). -/
structure Message where
  addr : HostAddr
  data : BitVec 16
  deriving DecidableEq, Repr

/-- A posted write (R174). -/
inductive PostedWrite where
  | record (addr : HostAddr) (bytes : RecordBytes)
  | bulkData (addr : HostAddr) (cells : List CellValue)
  | message (m : Message)
  deriving DecidableEq, Repr

/-- A register-read reply that waits behind posted writes (R181): how many writes of the queue are ahead of it, and
which held messages are. -/
structure Reply where
  bytes : List Byte
  ahead : Nat
  heldAhead : List VectorId
  deriving DecidableEq, Repr

/-- What has left the part on the link (the model's own record of it). -/
inductive LinkItem where
  | posted (w : PostedWrite)
  | reply (bytes : List Byte)
  deriving DecidableEq, Repr

/-! ### The state -/

/-- The state of the part. INVENTORY.md gives each field's rule and reset value. -/
structure State where
  pending : List Instr
  device : DeviceState
  fault : FaultBits
  adminBaseLow : Word32
  adminBaseHigh : Word32
  adminSize : Word32
  timeSnapshot : BitVec 16
  cfg : ConfigSpace
  timeBase : Time
  deadlines : List EntryId
  mem : List Host.Cell
  arbPointer : RingId
  arbCredit : Nat
  portOp : Option Requester
  table : Vector (Option HoldEntry) 256
  watch : List (Nat × List EntryId)
  occupancy : Vector Nat 8
  wakeQueue : List CellId
  scan : Scan
  rings : Vector RequestRing 8
  contexts : Vector RingContext 8
  lastChosen : RingId
  crings : Vector CompletionRing 4
  admin : AdminRing
  adminCtx : AdminWork
  adminArea : AdminArea
  places : Vector (Option Read) 16
  postq : List PostedWrite
  held : Vector (Option Message) 5
  replies : List Reply
  link : List LinkItem
  deriving DecidableEq, Repr

/-- The items of an UNCONFIGURED request ring: every item zero (R92). -/
def RingConfig.zero : RingConfig := ⟨0, 0, 0, 0, 0, 0, 0⟩

/-- A request ring after reset (R92, R99). -/
def RequestRing.reset : RequestRing := ⟨.unconfigured, .zero, 0, 0, 0, 0, []⟩

/-- A ring context after reset (R107, R119). That the changed mark is clear is a DESIGN CHOICE: no rule gives it a reset
value (log entry 42). -/
def RingContext.reset : RingContext := ⟨.empty, none, [], 0, false⟩

/-- A completion ring after reset (R131). -/
def CompletionRing.reset : CompletionRing := ⟨false, 0, 0, false, 0, 0, 0, 0, true, 0, none, []⟩

/-- The admin ring outside RUNNING (log entry 19). -/
def AdminRing.reset : AdminRing := ⟨0, 0, 0, 0, 0, []⟩

/-- The admin completion area outside RUNNING (log entry 19). -/
def AdminArea.reset : AdminArea := ⟨0, 0, true, []⟩

/-- FAULT with no bit set (R166). -/
def FaultBits.clear : FaultBits := ⟨false, false, false⟩

/-- Configuration space after power-on: everything off but the memory space (log entries 4 and 5). -/
def configSpaceReset : ConfigSpace := ⟨false, true, false, 0, 0, 0⟩

/-- The part right after a power-on reset: the values of Table 8-4, every cell zero, nothing outstanding (R168). -/
def State.reset : State where
  pending := []
  device := .idle
  fault := .clear
  adminBaseLow := 0
  adminBaseHigh := 0
  adminSize := 0
  timeSnapshot := 0
  cfg := configSpaceReset
  timeBase := 0
  deadlines := []
  mem := []
  arbPointer := 0
  arbCredit := 0
  portOp := none
  table := .replicate 256 none
  watch := []
  occupancy := .replicate 8 0
  wakeQueue := []
  scan := .idle
  rings := .replicate 8 .reset
  contexts := .replicate 8 .reset
  lastChosen := 7
  crings := .replicate 4 .reset
  admin := .reset
  adminCtx := .empty
  adminArea := .reset
  places := .replicate 16 none
  postq := []
  held := .replicate 5 none
  replies := []
  link := []

end Sys2Proof.Machine
end

