-- ==== Sys2Proof/Machine/Flags.lean ====
section
/-! DEFINITION. The cell operations with their flags (R3 to R13) and the evaluation of a condition (R25, R26). -/

namespace Sys2Proof.Machine

/-- Lane 0: bytes 0 to 7 (R2). -/
def lane0 (v : CellValue) : Lane := v.extractLsb' 0 64

/-- Lane 1: bytes 8 to 15 (R2). -/
def lane1 (v : CellValue) : Lane := v.extractLsb' 64 64

/-- The whole value with the given lanes (R2). -/
def ofLanes (l1 l0 : Lane) : CellValue := l1 ++ l0

/-- WRAP of an ADD: the true sum of `v` unsigned and `a` signed lies outside 0 to 2^w - 1 (R7). -/
def addWraps (v a : BitVec w) : Bool :=
  let sum : Int := (v.toNat : Int) + a.toInt
  sum < 0 || (2 ^ w : Int) ≤ sum

/-- The new scoped value of an op on the scoped value `v` with operands `a` and `b` (R5 to R12). -/
def opValue (op : Op) (v a b : BitVec w) : BitVec w :=
  match op with
  | .read => v
  | .store => a
  | .add => v + a
  | .set => v ||| a
  | .clear => v &&& ~~~a
  | .flip => v ^^^ a
  | .merge => (v &&& ~~~b) ||| (a &&& b)
  | .swap => a
  | .cswap => if v = b then a else v
  | .max => if v.toNat < a.toNat then a else v
  | .min => if a.toNat < v.toNat then a else v
  | .none => v

/-- WRAP of an op on one scoped value: ADD alone sets it (R7, R13). -/
def opWrap (op : Op) (v a : BitVec w) : Bool :=
  match op with
  | .add => addWraps v a
  | _ => false

/-- MATCHED of an op on one scoped value: CSWAP alone sets it (R10, R13). -/
def opMatched (op : Op) (v b : BitVec w) : Bool :=
  match op with
  | .cswap => v = b
  | _ => false

/-- The whole cell after an op under a scope; the bytes outside the scope keep their values (R3). -/
def scopedValue (op : Op) (sc : Scope) (v a b : CellValue) : CellValue :=
  match sc with
  | .lane0 => ofLanes (lane1 v) (opValue op (lane0 v) (lane0 a) (lane0 b))
  | .lane1 => ofLanes (opValue op (lane1 v) (lane1 a) (lane1 b)) (lane0 v)
  | .pair => ofLanes (opValue op (lane1 v) (lane1 a) (lane1 b)) (opValue op (lane0 v) (lane0 a) (lane0 b))
  | .whole => opValue op v a b

/-- WRAP under a scope; under PAIR either lane's (R7). -/
def scopedWrap (op : Op) (sc : Scope) (v a : CellValue) : Bool :=
  match sc with
  | .lane0 => opWrap op (lane0 v) (lane0 a)
  | .lane1 => opWrap op (lane1 v) (lane1 a)
  | .pair => opWrap op (lane0 v) (lane0 a) || opWrap op (lane1 v) (lane1 a)
  | .whole => opWrap op v a

/-- MATCHED under a scope (R10); CSWAP has no PAIR form (Table 1-2). -/
def scopedMatched (op : Op) (sc : Scope) (v b : CellValue) : Bool :=
  match sc with
  | .lane0 => opMatched op (lane0 v) (lane0 b)
  | .lane1 => opMatched op (lane1 v) (lane1 b)
  | .pair => opMatched op (lane0 v) (lane0 b) && opMatched op (lane1 v) (lane1 b)
  | .whole => opMatched op v b

/-- The flags of an operation that found `v` and left `v'` (R13). -/
def opFlags (act : Action) (v v' : CellValue) : Flags where
  changed := v' ≠ v
  wrap := scopedWrap act.op act.scope v act.a
  matched := scopedMatched act.op act.scope v act.b

/-- A relation between two masked values, compared as unsigned numbers (R26). -/
def relationHolds (rel : Relation) (x y : BitVec w) : Bool :=
  match rel with
  | .eq => x = y
  | .ne => x ≠ y
  | .geu => y.toNat ≤ x.toNat
  | .ltu => x.toNat < y.toNat

/-- A condition holds on the value of its watched cell (R25, R26). -/
def Condition.holds (k : Condition) (w : CellValue) : Bool :=
  match k.sel with
  | .lane0 => relationHolds k.rel (lane0 w &&& lane0 k.mask) (lane0 k.value &&& lane0 k.mask)
  | .lane1 => relationHolds k.rel (lane1 w &&& lane1 k.mask) (lane1 k.value &&& lane1 k.mask)
  | .whole => relationHolds k.rel (w &&& k.mask) (k.value &&& k.mask)

/-- A deadline has been reached at a time base: `(t - d) mod 2^48 < 2^47` (R76). -/
def expired (d t : Time) : Bool := (t - d).toNat < 2 ^ 47

/-- The deadline a timeout gives at the first evaluation, or none (R29). -/
def deadlineAt (t : Time) (timeout : BitVec 32) : Option Time :=
  if timeout = Config.noDeadline then none else some (t + timeout.setWidth 48)

/-- A masked tag match (R84). -/
def tagMatches (value mask tag : BitVec 16) : Bool := tag &&& mask = value &&& mask

end Sys2Proof.Machine
end

