-- ==== Sys2Proof/Machine/Operands.lean ====
section
/-! DEFINITION. The record and register formats of Chapter 11: reading the fields of a slot, the code tables, the
validation of requests (R31, R32), and the forming of completion records and READ STATUS values. -/

namespace Sys2Proof.Machine

/-! ### Fields of a slot (little-endian, Chapter 11) -/

/-- The `n` bytes at offset `o` of a slot, as one little-endian number. -/
def slotField (x : Slot) (o n : Nat) : BitVec (8 * n) := x.extractLsb' (8 * o) (8 * n)

/-- Byte `o` of a slot. -/
def slotByte (x : Slot) (o : Nat) : Byte := x.extractLsb' (8 * o) 8

/-- The 16-bit field at byte `o` of a slot. -/
def slotHalf (x : Slot) (o : Nat) : BitVec 16 := x.extractLsb' (8 * o) 16

/-- The 32-bit field at byte `o` of a slot. -/
def slotWord (x : Slot) (o : Nat) : BitVec 32 := x.extractLsb' (8 * o) 32

/-- The 64-bit field at byte `o` of a slot. -/
def slotQuad (x : Slot) (o : Nat) : BitVec 64 := x.extractLsb' (8 * o) 64

/-- The 16-byte field at byte `o` of a slot. -/
def slotOct (x : Slot) (o : Nat) : CellValue := x.extractLsb' (8 * o) 128

/-! ### Code tables (section 11.5) -/

/-- The continuation marker (Table 11-6). -/
def continuationMarker : Byte := 0x3C

/-- The kind code of a HOLD (Table 11-6), which alone gives a record length 2 (R183). -/
def holdCode : Byte := 0x03

/-- The kind echo of a fetch event (Table 11-6). -/
def fetchEventCode : Byte := 0x00

/-- The request-ring kinds (Table 11-6). -/
def requestKind (k : Byte) : Option RequestKind :=
  match k.toNat with
  | 0x01 => some .nop
  | 0x02 => some .update
  | 0x03 => some .hold
  | 0x04 => some .bulkRead
  | 0x05 => some .bulkWrite
  | 0x06 => some .cancel
  | _ => none

/-- The admin kinds (Table 11-6). -/
def adminKind (k : Byte) : Option AdminKind :=
  match k.toNat with
  | 0x41 => some .nop
  | 0x42 => some .configureRequestRing
  | 0x43 => some .configureCompletionRing
  | 0x44 => some .startRing
  | 0x45 => some .stopRing
  | 0x46 => some .resetRing
  | 0x47 => some .resetCompletionRing
  | 0x48 => some .cancelHolds
  | 0x49 => some .clearCells
  | 0x4A => some .readStatus
  | _ => none

/-- The ops (Table 11-7). -/
def decodeOp (k : Byte) : Option Op :=
  match k.toNat with
  | 0 => some .read
  | 1 => some .store
  | 2 => some .add
  | 3 => some .set
  | 4 => some .clear
  | 5 => some .flip
  | 6 => some .merge
  | 7 => some .swap
  | 8 => some .cswap
  | 9 => some .max
  | 10 => some .min
  | 15 => some .none
  | _ => none

/-- The scopes (Table 11-8). -/
def decodeScope (k : Byte) : Option Scope :=
  match k.toNat with
  | 0 => some .lane0
  | 1 => some .lane1
  | 2 => some .pair
  | 3 => some .whole
  | _ => none

/-- The relations (Table 11-8). -/
def decodeRelation (k : Byte) : Option Relation :=
  match k.toNat with
  | 0 => some .eq
  | 1 => some .ne
  | 2 => some .geu
  | 3 => some .ltu
  | _ => none

/-- The lane selectors (Table 11-8): code 2 is unknown. -/
def decodeLaneSel (k : Byte) : Option LaneSel :=
  match k.toNat with
  | 0 => some .lane0
  | 1 => some .lane1
  | 3 => some .whole
  | _ => none

/-- The status codes (Table 11-10). -/
def Status.code : Status → Byte
  | .ok => 0
  | .notMet => 1
  | .timeout => 2
  | .cancelled => 3
  | .aborted => 4
  | .badRequest => 5
  | .denied => 6
  | .quota => 7
  | .readFault => 8
  | .badConfig => 9
  | .ringState => 10

/-- The device state codes (Table 11-11). -/
def DeviceState.code : DeviceState → Byte
  | .idle => 0
  | .running => 1
  | .halted => 2
  | .resetting => 3

/-- The request ring state codes (Table 11-12). -/
def RingState.code : RingState → Byte
  | .unconfigured => 0
  | .ready => 1
  | .active => 2
  | .draining => 3
  | .stopped => 4
  | .faulted => 5

/-- The context work state codes (Table 11-12). -/
def Work.code : Work → Byte
  | .empty => 0
  | .waitFence _ => 1
  | .waitEntry _ _ _ => 2
  | .running _ => 3
  | .loading _ _ => 4
  | .reporting _ => 5

/-! ### Request records (Tables 11-1 and 11-2) -/

/-- The kind byte of a slot; it alone decides the record's length (R183). -/
def slotKind (x : Slot) : Byte := slotByte x 0

/-- The tag of a slot (Tables 11-1 and 11-3). -/
def slotTag (x : Slot) : BitVec 16 := slotHalf x 4

/-- The header of a first slot: flags are bits 0 to 2 of byte 1, the rest of the byte is ignored (R183). -/
def slotHeader (x : Slot) : Header where
  kind := slotKind x
  tag := slotTag x
  fence := (slotByte x 1).getLsbD 0
  quiet := (slotByte x 1).getLsbD 1
  ret := (slotByte x 1).getLsbD 2

/-- Table 1-2: the scopes each op may have. -/
def opScopeAllowed : Op → Scope → Bool
  | .read, _ => true
  | .add, _ => true
  | .max, _ => true
  | .min, _ => true
  | .none, _ => true
  | _, .pair => false
  | _, _ => true

/-- The op and scope of an UPDATE (`allowNone` false) or of a hold action (`allowNone` true) by R4, or none when
step 2 refuses them. -/
def decodeOpScope (x : Slot) (allowNone : Bool) : Option (Op × Scope) :=
  match decodeOp (slotByte x 2), decodeScope (slotByte x 3) with
  | some op, some sc =>
    if (op = .none && !allowNone) || !opScopeAllowed op sc then none else some (op, sc)
  | _, _ => none

/-- The cells of a ring's window: base up to but not including base plus count (R31). -/
def RingConfig.inWindow (g : RingConfig) (c : Nat) : Bool :=
  g.windowBase ≤ c && c < g.windowBase + g.windowCount

/-- A cell field as a cell of the window, or none when it lies outside it or names no cell (R32, R183). -/
def RingConfig.windowCell (g : RingConfig) (f : BitVec 16) : Option CellId :=
  if h : f.toNat < 4096 then
    if g.inWindow f.toNat then some ⟨f.toNat, h⟩ else none
  else none

/-- A run of `n` cells from `f` lies in the window (R32). -/
def RingConfig.runInWindow (g : RingConfig) (f n : Nat) : Bool :=
  g.windowBase ≤ f && f + n ≤ g.windowBase + g.windowCount && f + n ≤ 4096

/-- The condition fields of a continuation slot that step 2 checks, or none when it refuses them (Table 2-3). -/
def decodeConditionCodes (y : Slot) : Option (Relation × LaneSel) :=
  if slotByte y 0 = continuationMarker then
    match decodeRelation (slotByte y 1), decodeLaneSel (slotByte y 2) with
    | some rel, some sel => some (rel, sel)
    | _, _ => none
  else none

/-- The action that a first slot asks for, once its op, scope and target are known. -/
def slotAction (x : Slot) (op : Op) (sc : Scope) (t : CellId) : Action :=
  ⟨op, sc, t, slotOct x 32, slotOct x 48⟩

/-- Validation of an UPDATE (R31, R32). -/
def validateUpdate (g : RingConfig) (x : Slot) : Except Status Body :=
  match decodeOpScope x false with
  | none => .error .badRequest
  | some (op, sc) =>
    match g.windowCell (slotHalf x 6) with
    | none => .error .denied
    | some t => .ok (.update (slotAction x op sc t))

/-- Validation of a HOLD with both its slots (R31, R32). -/
def validateHold (g : RingConfig) (x y : Slot) : Except Status Body :=
  match decodeOpScope x true, decodeConditionCodes y with
  | some (op, sc), some (rel, sel) =>
    match g.windowCell (slotHalf x 6), g.windowCell (slotHalf y 8) with
    | some t, some w =>
      .ok (.hold (slotAction x op sc t) ⟨w, sel, rel, slotOct y 32, slotOct y 48⟩ (slotWord y 4))
    | _, _ => .error .denied
  | _, _ => .error .badRequest

/-- Validation of a bulk request (R31, R32, R118); `mk` builds the body of its kind. -/
def validateBulk (mk : Nat → Nat → HostAddr → Body) (g : RingConfig) (x : Slot) : Except Status Body :=
  let f := (slotHalf x 6).toNat
  let n := (slotHalf x 8).toNat
  let h := slotQuad x 16
  if n < 1 || 64 < n || h.toNat % 16 ≠ 0 then .error .badRequest
  else if g.runInWindow f n then .ok (mk f n h) else .error .denied

/-- R31: the three checks of a request, in order. `second` is the continuation slot of a HOLD. -/
def validateRequest (g : RingConfig) (first : Slot) (second : Option Slot) : Except Status Body :=
  match requestKind (slotKind first) with
  | none => .error .badRequest
  | some .nop => .ok .nop
  | some .update => validateUpdate g first
  | some .hold =>
    match second with
    | some y => validateHold g first y
    | none => .error .badRequest
  | some .bulkRead => validateBulk .bulkRead g first
  | some .bulkWrite => validateBulk .bulkWrite g first
  | some .cancel => .ok (.cancel (slotHalf first 32) (slotHalf first 48))

/-! ### Admin records (Table 11-3) -/

/-- Request ring 0 to 7 named by a whole byte, or none (R184). -/
def ringNumber (b : Byte) : Option RingId :=
  if h : b.toNat < 8 then some ⟨b.toNat, h⟩ else none

/-- Completion ring 0 to 3 named by a whole byte, or none (R184). -/
def cringNumber (b : Byte) : Option CRingId :=
  if h : b.toNat < 4 then some ⟨b.toNat, h⟩ else none

/-- The rings a CANCEL HOLDS selects: one ring, or all for 0xFF (Table 11-3). -/
def ringSelector (b : Byte) : Option (List RingId) :=
  if b = 0xFF then some (List.finRange 8)
  else (ringNumber b).map (fun r => [r])

/-- A power of two from 16 to 4096 (R156, R157). -/
def ringSizeValid (n : Nat) : Bool :=
  n = 16 || n = 32 || n = 64 || n = 128 || n = 256 || n = 512 || n = 1024 || n = 2048 || n = 4096

/-- The values ADMIN SIZE may have (R150). -/
def adminSizeValid (n : Nat) : Bool :=
  n = 16 || n = 32 || n = 64 || n = 128 || n = 256

/-- The items of a CONFIGURE REQUEST RING, or none when step 3 ends it BAD_CONFIG (R156, R184). -/
def decodeRingConfig (x : Slot) : Option RingConfig :=
  let base := slotQuad x 16
  let size := (slotHalf x 12).toNat
  let weight := (slotByte x 10).toNat
  let wb := (slotHalf x 24).toNat
  let wc := (slotHalf x 26).toNat
  let quota := (slotHalf x 14).toNat
  match cringNumber (slotByte x 9) with
  | none => none
  | some c =>
    if base.toNat % 64 = 0 && ringSizeValid size && 1 ≤ weight && weight ≤ 8 && wb ≤ 4095 && 1 ≤ wc && wc ≤ 4096
        && wb + wc ≤ 4096 && quota ≤ 256 then
      some ⟨base, size, c, weight, wb, wc, quota⟩
    else none

/-- An ACTIVE completion ring with the items of a CONFIGURE COMPLETION RING and the outcome list it keeps (R131), or
none when step 3 ends the request BAD_CONFIG (R157, R184). -/
def decodeCRingConfig (x : Slot) (list : List Source) : Option CompletionRing :=
  let base := slotQuad x 16
  let size := (slotHalf x 12).toNat
  let threshold := (slotByte x 10).toNat
  if base.toNat % 32 = 0 && ringSizeValid size && 1 ≤ threshold && threshold ≤ 64 then
    some { active := true, base := base, size := size, intEnable := (slotByte x 9).getLsbD 0,
           threshold := threshold, holdoff := (slotHalf x 14).toNat, producer := 0, consumer := 0, phase := true,
           unsignalled := 0, timer := none, list := list }
  else none

/-! ### Completion records (Table 11-4) -/

/-- One bit as the lowest bit of a byte. -/
def bitByte (b : Bool) : Byte := if b then 1 else 0

/-- Byte 4 of a record: CHANGED, WRAP, MATCHED, VALUE_PRESENT (Table 11-4). -/
def flagByte (o : Report) : Byte :=
  bitByte o.flags.changed ||| (bitByte o.flags.wrap <<< 1) ||| (bitByte o.flags.matched <<< 2)
    ||| (bitByte o.value.isSome <<< 3)

/-- The 32 bytes of a record (R140, R185): the value last, byte 0 lowest. -/
def formRecord (phase : Bool) (source : Byte) (head : Nat) (o : Report) : RecordBytes :=
  o.value.getD 0 ++ o.endTime ++ BitVec.ofNat 16 o.count ++ BitVec.ofNat 16 head ++ o.tag ++ (0 : Byte)
    ++ flagByte o ++ source ++ o.kind ++ o.status.code ++ bitByte phase

/-- The source byte of an admin record (Table 11-4). -/
def adminSourceCode : Byte := 0x08

end Sys2Proof.Machine
end

