-- ==== Sys2Proof/Machine/Ops.lean ====
section
/-! DEFINITION. The shared operations: the Cell Store, the blocks' registers, posted writes and messages, the arbiter,
the claims on hold entries with the wake scan, and the ends of requests. Every meaning is built from these. -/

namespace Sys2Proof.Machine

/-! ### Sparse maps in one canonical form -/

/-- What a key holds: its listed value, or the default. -/
def sparseGet (d : β) : List (Nat × β) → Nat → β
  | [], _ => d
  | (k, v) :: rest, a => if k = a then v else sparseGet d rest a

/-- The map with `a` holding `b`; a default value is not listed and keys stay rising. -/
def sparsePut [DecidableEq β] (d : β) : List (Nat × β) → Nat → β → List (Nat × β)
  | [], a, b => if b = d then [] else [(a, b)]
  | (k, v) :: rest, a, b =>
    if a < k then (if b = d then (k, v) :: rest else (a, b) :: (k, v) :: rest)
    else if a = k then (if b = d then rest else (a, b) :: rest)
    else (k, v) :: sparsePut d rest a b

/-- The canonical form: keys rise strictly from above `lo`, and no value is the default. -/
def sparseWfFrom [DecidableEq β] (d : β) : Option Nat → List (Nat × β) → Bool
  | _, [] => true
  | lo, (k, v) :: rest => lo.all (· < k) && v ≠ d && sparseWfFrom d (some k) rest

/-- The canonical form of a whole map. -/
def sparseWf [DecidableEq β] (d : β) (m : List (Nat × β)) : Bool := sparseWfFrom d none m

/-! ### The Cell Store and the staging buffers (R1, R2, R118) -/

/-- The byte at an address; an unlisted byte is 0, as a power-on reset leaves it (R1). -/
def readByte (m : List Host.Cell) (a : Nat) : Byte := sparseGet 0 m a

/-- The store with one byte written. -/
def writeByte (m : List Host.Cell) (a : Nat) (b : Byte) : List Host.Cell := sparsePut 0 m a b

/-- Memory.wf: the canonical form of a store. -/
def Memory.wf (m : List Host.Cell) : Bool := sparseWf 0 m

/-- The whole 128-bit value of the cell with index `c`: its byte `k` stands at address `16 c + k` (R2). -/
def readCell (m : List Host.Cell) (c : Nat) : CellValue :=
  (List.range 16).foldr (fun k acc => acc <<< 8 ||| (readByte m (16 * c + k)).setWidth 128) 0

/-- Byte `k` of a cell value (R2). -/
def cellByte (v : CellValue) (k : Nat) : Byte := v.extractLsb' (8 * k) 8

/-- The store with the 16 bytes of cell `c` replaced (R15: an operation writes at most one cell). -/
def writeCell (m : List Host.Cell) (c : Nat) (v : CellValue) : List Host.Cell :=
  (List.range 16).foldl (fun m k => writeByte m (16 * c + k) (cellByte v k)) m

/-- Consecutive cells from index `c`. -/
def readCells (m : List Host.Cell) (c n : Nat) : List CellValue :=
  (List.range n).map (fun i => readCell m (c + i))

/-- The store with consecutive cells from index `c` replaced. -/
def writeCells (m : List Host.Cell) (c : Nat) : List CellValue → List Host.Cell
  | [] => m
  | v :: vs => writeCells (writeCell m c v) (c + 1) vs

/-- The store with cell `c` holding `v`, untouched when it holds `v` already, and whether it changed (R13, R22). -/
def storeCell (m : List Host.Cell) (c : Nat) (v : CellValue) : List Host.Cell × Bool :=
  if readCell m c = v then (m, false) else (writeCell m c v, true)

/-- One action on the store (R4 to R14). NONE makes no access to the target (R12). -/
def performAction (m : List Host.Cell) (act : Action) : ActionResult :=
  if act.op = .none then ⟨m, .none, 0⟩
  else
    let old := readCell m act.target
    let new := scopedValue act.op act.scope old act.a act.b
    ⟨(storeCell m act.target new).1, opFlags act old new, old⟩

/-- The returned value of a performed action: the target before it, or for NONE the watched cell as evaluated,
when RETURN is set (R14). -/
def actionValue (act : Action) (old watched : CellValue) (ret : Bool) : Option CellValue :=
  if ret then some (if act.op = .none then watched else old) else none

/-! ### Registers of the blocks -/

/-- The request ring `r`. -/
def State.ring (s : State) (r : RingId) : RequestRing := s.rings[r]

/-- The state with request ring `r` replaced. -/
def State.setRing (s : State) (r : RingId) (x : RequestRing) : State := { s with rings := s.rings.set r x }

/-- The context of ring `r`. -/
def State.ctx (s : State) (r : RingId) : RingContext := s.contexts[r]

/-- The state with the context of ring `r` replaced. -/
def State.setCtx (s : State) (r : RingId) (x : RingContext) : State := { s with contexts := s.contexts.set r x }

/-- The state with the work state of ring `r`'s context replaced. -/
def State.setWork (s : State) (r : RingId) (w : Work) : State := s.setCtx r { s.ctx r with work := w }

/-- Completion ring `c`. -/
def State.cring (s : State) (c : CRingId) : CompletionRing := s.crings[c]

/-- The state with completion ring `c` replaced. -/
def State.setCRing (s : State) (c : CRingId) (x : CompletionRing) : State := { s with crings := s.crings.set c x }

/-- The hold entry `e`, or none when it is FREE (R46). -/
def State.entry (s : State) (e : EntryId) : Option HoldEntry := s.table[e]

/-- The state with hold entry `e` replaced. -/
def State.setEntry (s : State) (e : EntryId) (x : Option HoldEntry) : State := { s with table := s.table.set e x }

/-- The occupancy of ring `r` (R59). -/
def State.occ (s : State) (r : RingId) : Nat := s.occupancy[r]

/-- The state with the occupancy of ring `r` replaced. -/
def State.setOcc (s : State) (r : RingId) (n : Nat) : State := { s with occupancy := s.occupancy.set r n }

/-- What read place `p` holds (R170). -/
def State.place (s : State) (p : PlaceId) : Option Read := s.places[p]

/-- The state with read place `p` replaced. -/
def State.setPlace (s : State) (p : PlaceId) (x : Option Read) : State := { s with places := s.places.set p x }

/-- The watch list of a cell (R56). -/
def State.watchList (s : State) (c : CellId) : List EntryId := sparseGet [] s.watch c.val

/-- The state with the watch list of a cell replaced. -/
def State.setWatch (s : State) (c : CellId) (l : List EntryId) : State :=
  { s with watch := sparsePut [] s.watch c.val l }

/-- The time base's low 32 bits, the end time of an outcome decided now (R75). -/
def State.now32 (s : State) : BitVec 32 := s.timeBase.setWidth 32

/-- `(a - b) mod size` on ring indices. -/
def ringDistance (a b size : Nat) : Nat := (a + size - b) % size

/-- The rings after `r` in upward order, wrapping and ending with `r` itself (R20, R103). -/
def ringsAfter (r : RingId) : List RingId := (List.finRange 8).map (fun k => r + 1 + k)

/-! ### Hold Table views -/

/-- An entry is ARMED (R46). -/
def HoldEntry.isArmed (x : HoldEntry) : Bool :=
  match x.state with
  | .armed => true
  | .ending _ => false

/-- Entry `e` is ARMED and satisfies `f`. -/
def State.armedWith (s : State) (f : HoldEntry → Bool) (e : EntryId) : Bool :=
  match s.entry e with
  | some x => x.isArmed && f x
  | none => false

/-- The ARMED entries that satisfy `f`, in ascending entry number (R49). -/
def State.armedEntries (s : State) (f : HoldEntry → Bool) : List EntryId :=
  (List.finRange 256).filter (s.armedWith f)

/-- The ring's ARMED count (R115). -/
def State.armedCount (s : State) (r : RingId) : Nat := (s.armedEntries (fun x => x.origin = r)).length

/-- The total occupancy: the entries that are not FREE (R60). -/
def State.totalOccupancy (s : State) : Nat := ((List.finRange 256).filter (fun e => (s.entry e).isSome)).length

/-- The lowest-numbered FREE entry (R48). -/
def State.firstFree (s : State) : Option EntryId := (List.finRange 256).find? (fun e => (s.entry e).isNone)

/-! ### Posted writes, messages and read replies (R174 to R176, R181) -/

/-- The posted-write queue has a place free (R174). -/
def State.placeFree (s : State) : Bool := s.postq.length < Config.postedWrites

/-- A message is held at some vector (R174). -/
def State.anyHeld (s : State) : Bool := (List.finRange 5).any (fun v => (s.held[v]).isSome)

/-- A place of the queue is free for a record or for bulk data: no held message waits for it (R174). -/
def State.hasRoom (s : State) : Bool := s.placeFree && !s.anyHeld

/-- The write joins the tail of the posted-write queue. -/
def State.handOver (s : State) (w : PostedWrite) : State := { s with postq := s.postq ++ [w] }

/-- A read reply that nothing is ahead of. -/
def Reply.ready (y : Reply) : Bool := y.ahead = 0 && y.heldAhead.isEmpty

/-- The replies that nothing is ahead of any more are sent, in order (R181). -/
def State.flushReplies (s : State) : State :=
  { s with replies := s.replies.filter (fun y => !y.ready)
           link := s.link ++ (s.replies.filter Reply.ready).map (fun y => LinkItem.reply y.bytes) }

/-- The first `n` writes are gone from the queue, and the replies that waited for them alone follow (R181). -/
def State.removeFirst (s : State) (n : Nat) : State :=
  State.flushReplies { s with
    postq := s.postq.drop n
    replies := s.replies.map (fun y => { y with ahead := y.ahead - n }) }

/-- A posted write is an interrupt message (R174). -/
def PostedWrite.isMessage : PostedWrite → Bool
  | .message _ => true
  | .record _ _ => false
  | .bulkData _ _ => false

/-- How many writes at the front of a queue are dropped: while message-signalled interrupts are disabled, every message
that reaches the head (R176). -/
def droppedMessages (msiEnable : Bool) (q : List PostedWrite) : Nat :=
  if msiEnable then 0 else (q.takeWhile PostedWrite.isMessage).length

/-- The messages at the head of the queue that are to be dropped are gone, whatever bus mastering (R176, log entry
38). -/
def State.dropMessages (s : State) : State :=
  let n := droppedMessages s.cfg.msiEnable s.postq
  if n = 0 then s else s.removeFirst n

/-- The number under which the message of a vector is sent: the vector modulo the number of messages enabled (R176). -/
def State.messageNumber (s : State) (v : VectorId) : Nat := v.val % 2 ^ s.cfg.msiLog2.val

/-- The message for a vector, with the address and data of this moment and the message number added to the data (R176,
log entries 9 and 40). -/
def State.messageFor (s : State) (v : VectorId) : Message :=
  ⟨s.cfg.msiAddress, s.cfg.msiData + BitVec.ofNat 16 (s.messageNumber v)⟩

/-- A message takes a place of the queue. One that is at the head at once is dropped while message-signalled
interrupts are disabled (R174, R176). -/
def State.placeMessage (s : State) (m : Message) : State :=
  if s.postq.isEmpty && !s.cfg.msiEnable then s else s.handOver (.message m)

/-- A reply once the message of vector `v` is no longer held, with `n` writes then in the queue (R181). -/
def Reply.heldReleased (y : Reply) (v : VectorId) (n : Nat) : Reply :=
  if y.heldAhead.contains v then { y with heldAhead := y.heldAhead.erase v, ahead := n } else y

/-- The message held at vector `v`, if any, takes a free place of the queue (R174). -/
def State.releaseVector (s : State) (v : VectorId) : State :=
  match s.held[v] with
  | none => s
  | some m =>
    if s.placeFree then
      let t := s.placeMessage m
      State.flushReplies { t with
        held := t.held.set v none
        replies := t.replies.map (fun y => y.heldReleased v t.postq.length) }
    else s

/-- The held messages take the free places, the lowest vector first (R174). -/
def State.releaseHeld (s : State) : State := (List.finRange 5).foldl State.releaseVector s

/-- A message is handed over. The messages held before it take the free places first. It then joins the queue, or is
held at its vector while the queue is full, where a further message of the vector adds nothing (R174). -/
def State.sendMessage (s : State) (v : VectorId) : State :=
  let t := s.releaseHeld
  if t.placeFree then t.placeMessage (s.messageFor v)
  else
    match t.held[v] with
    | some _ => t
    | none => { t with held := t.held.set v (some (s.messageFor v)) }

/-- A bit of FAULT. -/
def FaultBits.get (f : FaultBits) : FaultBit → Bool
  | .adminFetch => f.adminFetch
  | .postError => f.postError
  | .configError => f.configError

/-- FAULT with one bit set. -/
def FaultBits.set (f : FaultBits) : FaultBit → FaultBits
  | .adminFetch => { f with adminFetch := true }
  | .postError => { f with postError := true }
  | .configError => { f with configError := true }

/-- A bit of FAULT is set; going from clear to set sends a message on vector 0, but not in RESETTING (R166). -/
def State.setFault (s : State) (b : FaultBit) : State :=
  if s.fault.get b then s
  else
    let s' := { s with fault := s.fault.set b }
    if s.device = .resetting then s' else s'.sendMessage 0

/-! ### Which write takes a place of the queue (R136, R174) -/

/-- The outcome list of a completion ring or of the admin completion area (R134). -/
def State.outcomeList (s : State) : ListId → List Source
  | .admin => s.adminArea.list
  | .ring c => (s.cring c).list

/-- A ring with the given indices is full (R137). -/
def ringFull (size producer consumer : Nat) : Bool := (producer + 1) % size = consumer

/-- The place of a list's records takes one more: ACTIVE and not full (R136, R137). The admin completion area is
ACTIVE while the device is RUNNING (R132). -/
def State.listOpen (s : State) : ListId → Bool
  | .admin => !ringFull s.admin.size s.adminArea.producer s.adminArea.consumer
  | .ring c => (s.cring c).active && !ringFull (s.cring c).size (s.cring c).producer (s.cring c).consumer

/-- The five conditions of R136; a place that a held message waits for is not free for a record (R174). -/
def State.canWrite (s : State) (l : ListId) : Bool :=
  !(s.outcomeList l).isEmpty && s.listOpen l && s.device = .running && s.hasRoom

/-- The lists in the order in which they take a place of the posted-write queue (R174). -/
def listOrder : List ListId := .admin :: (List.finRange 4).map .ring

/-- The head record of list `l` may be written now: the conditions of R136 hold for it and for no list before it, since
a free place goes to the first list that can write (R174, log entry 12). -/
def State.mayWrite (s : State) (l : ListId) : Bool := listOrder.find? s.canWrite = some l

/-- The data write of a BULK READ finds a place: the queue has one, and it is not a record's (R121, R174, log entry 12). -/
def State.bulkRoom (s : State) : Bool := s.hasRoom && !listOrder.any s.canWrite

/-! ### The arbiter (R18 to R20) -/

/-- The context of ring `r` has cell-port work (R19, R121). -/
def State.hasWork (s : State) (r : RingId) : Bool :=
  match (s.ctx r).work with
  | .running q =>
    match q.body with
    | .update _ => true
    | .hold _ _ _ => true
    | .bulkRead _ n _ => (s.ctx r).progress < n && ((s.ctx r).progress + 1 < n || s.bulkRoom)
    | .bulkWrite _ n _ => (s.ctx r).progress < n
    | _ => false
  | .waitEntry _ _ ready => ready
  | _ => false

/-- The admin context has cell-port work (R19). -/
def State.adminHasWork (s : State) : Bool :=
  match s.adminCtx with
  | .running _ _ _ n k _ => k < n
  | _ => false

/-- The Wake Scan has a step to make (R19). -/
def State.scanHasWork (s : State) : Bool := s.scan ≠ .idle

/-- The weighted round robin: the ring granted, and the credit it leaves (R20). -/
def State.chooseRing (s : State) : Option (RingId × Nat) :=
  if s.hasWork s.arbPointer && 0 < s.arbCredit then some (s.arbPointer, s.arbCredit - 1)
  else ((ringsAfter s.arbPointer).find? s.hasWork).map (fun r => (r, (s.ring r).config.weight - 1))

/-- The requester that a grant decision chooses (R18). -/
def State.chosen (s : State) : Option Requester :=
  if s.scanHasWork then some .scan
  else if s.adminHasWork then some .admin
  else s.chooseRing.map (fun x => .ring x.1)

/-- The pointer and the credit after a grant: only a request ring's grant moves them (R20). -/
def State.chargeGrant (s : State) (q : Requester) : State :=
  match q, s.chooseRing with
  | .ring _, some (r, credit) => { s with arbPointer := r, arbCredit := credit }
  | _, _ => s

/-- The state in which requester `q` performs its operation, or none when it holds no grant. In RUNNING the grant is
the arbiter's choice (R18, R21). In RESETTING only the operation that was in progress at the entry completes
(R21, R167). In IDLE and HALTED no grant is made. -/
def State.grant (s : State) (q : Requester) : Option State :=
  match s.device with
  | .running => if s.chosen = some q then some (s.chargeGrant q) else none
  | .resetting => if s.portOp = some q then some { s with portOp := none } else none
  | _ => none

/-! ### The wake queue and the scan (R61 to R67) -/

/-- The entry that stands behind `e` in a list. -/
def successor (e : EntryId) : List EntryId → Option EntryId
  | [] => none
  | x :: xs => if x = e then xs.head? else successor e xs

/-- The scan that taking the head of a wake queue starts, and the queue it leaves (R63). A cell without watchers has
nothing to scan (R62). -/
def nextScan (watch : CellId → List EntryId) : List CellId → Scan × List CellId
  | [] => (.idle, [])
  | c :: rest =>
    match watch c with
    | e :: _ => (.scanning c e, rest)
    | [] => nextScan watch rest

/-- The Wake Scan takes the head of the queue, or becomes IDLE (R63, R67). -/
def State.takeHead (s : State) : State :=
  let x := nextScan s.watchList s.wakeQueue
  { s with scan := x.1, wakeQueue := x.2 }

/-- The position moves to an entry of the current cell's list, or passes its end (R65, R67). -/
def State.moveOn (s : State) (c : CellId) (next : Option EntryId) : State :=
  match next with
  | some e => { s with scan := .scanning c e }
  | none => s.takeHead

/-- A change report: the cell joins the wake queue when it has watchers and is not queued, and an idle scan takes
the head at once (R22, R61, R63). -/
def State.reportChange (s : State) (c : CellId) : State :=
  if (s.watchList c).isEmpty || s.wakeQueue.contains c then s
  else
    let s' := { s with wakeQueue := s.wakeQueue ++ [c] }
    if s'.scan = .idle then s'.takeHead else s'

/-- A change report that is made only when the cell's bytes changed (R22). -/
def State.reportIf (s : State) (changed : Bool) (c : CellId) : State := if changed then s.reportChange c else s

/-! ### Outcome lists and the ends of requests (R111, R134, R143) -/

/-- A source joins the tail of completion ring `c`'s outcome list (R134). -/
def State.joinList (s : State) (c : CRingId) (x : Source) : State :=
  s.setCRing c { s.cring c with list := (s.cring c).list ++ [x] }

/-- The outcome of a request with a given header (R111). -/
def Header.report (h : Header) (st : Status) (fl : Flags) (v : Option CellValue) (n : Nat) (t : BitVec 32) : Report :=
  ⟨st, h.kind, h.tag, fl, v, n, t⟩

/-- The context of ring `r` ends its request with outcome `o`: it enters REPORTING and joins its list, or becomes
EMPTY when QUIET is set and the status is OK (R23, R111, R143). -/
def State.finish (s : State) (r : RingId) (quiet : Bool) (o : Report) : State :=
  if quiet && o.status = .ok then s.setWork r .empty
  else (s.setWork r (.reporting o)).joinList (s.ring r).config.cring (.ring r)

/-- The admin context ends its request with outcome `o` (R154). -/
def State.finishAdmin (s : State) (o : Report) : State :=
  { s with adminCtx := .reporting o
           adminArea := { s.adminArea with list := s.adminArea.list ++ [.admin] } }

/-! ### Claims on hold entries (R47 to R55) -/

/-- A waiting context becomes ready to retry (R41). -/
def Work.makeReady : Work → Work
  | .waitEntry q d _ => .waitEntry q d true
  | w => w

/-- Every context in WAIT_ENTRY becomes ready to retry (R41, R55). -/
def State.makeReady (s : State) : State :=
  { s with contexts := s.contexts.map (fun x => { x with work := x.work.makeReady }) }

/-- Entry `e` becomes FREE: its ring's occupancy falls and waiting contexts become ready (R55). -/
def State.freeEntry (s : State) (e : EntryId) : State :=
  match s.entry e with
  | some x => ((s.setEntry e none).setOcc x.origin (s.occ x.origin - 1)).makeReady
  | none => s

/-- The time left before an entry's deadline, the order of the deadline list (R77). -/
def State.remaining (s : State) (d : Time) : Nat := (d - s.timeBase).toNat

/-- The time left before the deadline of entry `e`; none is left once it has been reached, so that such an entry counts
as earlier than any that has time left (R78). -/
def State.entryRemaining (s : State) (e : EntryId) : Nat :=
  match s.entry e with
  | some x => if expired (x.deadline.getD 0) s.timeBase then 0 else s.remaining (x.deadline.getD 0)
  | none => 0

/-- An entry is placed behind every entry whose key is at most its own and ahead of the first with a larger one
(R78). -/
def insertByKey (key : EntryId → Nat) (k : Nat) (e : EntryId) : List EntryId → List EntryId
  | [] => [e]
  | x :: xs => if key x ≤ k then x :: insertByKey key k e xs else e :: x :: xs

/-- The deadline list with entry `e` inserted for a finite deadline (R47 step 4, R78). -/
def State.deadlinesWith (s : State) (d : Option Time) (e : EntryId) : List EntryId :=
  match d with
  | some t => insertByKey s.entryRemaining (s.remaining t) e s.deadlines
  | none => s.deadlines

/-- The entry that arming a hold of ring `r` fills in (Table 3-1). -/
def State.newEntry (s : State) (r : RingId) (h : Header) (act : Action) (cond : Condition) (d : Option Time) :
    HoldEntry where
  state := .armed
  origin := r
  generation := (s.ring r).generation
  tag := h.tag
  quiet := h.quiet
  ret := h.ret
  cring := (s.ring r).config.cring
  cond := cond
  act := act
  deadline := d

/-- Arming into the FREE entry `e` (R47). -/
def State.arm (s : State) (r : RingId) (h : Header) (act : Action) (cond : Condition) (d : Option Time)
    (e : EntryId) : State :=
  let s1 := { s with deadlines := s.deadlinesWith d e }
  let s2 := s1.setEntry e (some (s.newEntry r h act cond d))
  let s3 := s2.setWatch cond.cell (s.watchList cond.cell ++ [e])
  s3.setOcc r (s.occ r + 1)

/-- Entry `e` leaves the watch list of cell `c` and the deadline list; a cell left without watchers leaves the wake
queue (R49 steps 1 and 2, R58, R62, R79). The scan's position is not moved here. -/
def State.dropEntry (s : State) (e : EntryId) (c : CellId) : State :=
  let l := (s.watchList c).erase e
  { s.setWatch c l with
    wakeQueue := if l.isEmpty then s.wakeQueue.erase c else s.wakeQueue
    deadlines := s.deadlines.erase e }

/-- Entry `e` becomes ENDING with a result and joins its outcome list (R49 steps 3 to 5). -/
def State.endWith (s : State) (e : EntryId) (x : HoldEntry) (res : HoldResult) : State :=
  (s.setEntry e (some { x with state := .ending res })).joinList x.cring (.entry e)

/-- A claim other than a firing ends entry `e` with a status: only an ARMED entry is touched, and a scan at the entry
moves on in the same claim (R49, R53, R66, R81). -/
def State.claimEnd (s : State) (st : Status) (e : EntryId) : State :=
  match s.entry e with
  | none => s
  | some x =>
    if x.isArmed then
      let c := x.cond.cell
      let s1 := s.dropEntry e c
      let s2 := if s.scan = .scanning c e then s1.moveOn c (successor e (s.watchList c)) else s1
      s2.endWith e x ⟨st, .none, none, s.now32⟩
    else s

/-- One claim that ends several entries together, in the order of the list (R49). -/
def State.claimAll (s : State) (st : Status) (es : List EntryId) : State :=
  es.foldl (fun s e => s.claimEnd st e) s

/-- The entries of the rings `rs` that a cancel matches, in ascending entry number (R84, R86). -/
def State.cancelMatches (s : State) (rs : List RingId) (value mask : BitVec 16) : List EntryId :=
  s.armedEntries (fun x => rs.contains x.origin && tagMatches value mask x.tag)

/-! ### Starting a request (R110, R115) -/

/-- A context's progress count and changed mark are cleared as a bulk transfer starts (R119, R125). -/
def State.clearProgress (s : State) (r : RingId) : State :=
  s.setCtx r { s.ctx r with progress := 0, changedMark := false }

/-- The cancel claim of a ring's CANCEL and its own outcome (R84). -/
def State.runCancel (s : State) (r : RingId) (h : Header) (value mask : BitVec 16) : State :=
  let es := s.cancelMatches [r] value mask
  (s.claimAll .cancelled es).finish r h.quiet (h.report .ok .none none es.length s.now32)

/-- A validated request starts, once it waits for no fence (R110, R114, R115). -/
def State.startRequest (s : State) (r : RingId) (q : Request) : State :=
  match q.body with
  | .nop => s.finish r q.header.quiet (q.header.report .ok .none none 0 s.now32)
  | .update _ => s.setWork r (.running q)
  | .hold _ _ _ => s.setWork r (.running q)
  | .bulkRead _ _ _ => (s.clearProgress r).setWork r (.running q)
  | .bulkWrite _ _ _ => (s.clearProgress r).setWork r (.loading q false)
  | .cancel value mask => s.runCancel r q.header value mask

/-- The fence of ring `r` opens when its ARMED count is 0: a request in WAIT_FENCE starts (R115). In HALTED and in
RESETTING no request starts (R116, R117, log entry 14). -/
def State.releaseFence (s : State) (r : RingId) : State :=
  match (s.ctx r).work with
  | .waitFence q => if s.device = .running && s.armedCount r = 0 then s.startRequest r q else s
  | _ => s

/-- The fences of several rings open, in the order of the list. -/
def State.releaseFences (s : State) (rs : List RingId) : State := rs.foldl State.releaseFence s

/-! ### Reads (R170, R171) -/

/-- A read place is released. -/
def State.release (s : State) (p : PlaceId) : State := s.setPlace p none

/-- A read is current: its device mark is current and a request-ring read carries its ring's generation (R171). -/
def State.isCurrent (s : State) (x : Read) : Bool :=
  x.deviceMark &&
    match x.owner with
    | .fetch r => x.ownerMark = (s.ring r).generation
    | .bulk r => x.ownerMark = (s.ring r).generation
    | .adminFetch => true

/-- Some read place holds a read that satisfies `f`. -/
def State.anyRead (s : State) (f : Read → Bool) : Bool :=
  (List.finRange 16).any (fun p => match s.place p with | some x => f x | none => false)

/-- A read is a fetch read of ring `r`. -/
def Read.isFetchOf (x : Read) (r : RingId) : Bool := x.owner = .fetch r

/-- A read, fetch or bulk, of ring `r` (R99). -/
def Read.isReadOf (x : Read) (r : RingId) : Bool := x.owner = .fetch r || x.owner = .bulk r

/-- A read that bars a configure or a reset of ring `r`: it has a current device mark and carries the generation the
change would give (R99). -/
def State.barred (s : State) (r : RingId) : Bool :=
  s.anyRead (fun x => x.isReadOf r && x.deviceMark && x.ownerMark = (s.ring r).generation + 1)

/-- The lowest-numbered free read place (log entry 7). -/
def State.freePlace (s : State) : Option PlaceId := (List.finRange 16).find? (fun p => (s.place p).isNone)

/-- The slots of a returned read become arrived at their places of a prefetch buffer (R104). -/
def arriveSlots (buffer : List (Option Slot)) (at0 : Nat) : List Slot → List (Option Slot)
  | [] => buffer
  | x :: xs => arriveSlots (buffer.set at0 (some x)) (at0 + 1) xs

/-! ### Draining (R96) -/

/-- Ring `r` has what the end of draining needs: its context is EMPTY and no fetch read of it is outstanding. -/
def State.drained (s : State) (r : RingId) : Bool :=
  (s.ctx r).work = .empty && !s.anyRead (fun x => x.isFetchOf r)

end Sys2Proof.Machine
end

