-- ==== Sys2Proof/Machine/Reads.lean ====
section
/-! DEFINITION. Reads from host memory (R103 to R105, R123 to R126, R151, R152, R170 to R173): their issue, their
returns with data or with a fault, and the pending fetch event's way into the outcome holder (R106). -/

namespace Sys2Proof.Machine

/-! ### Issue -/

/-- The published slots of a ring that have not been fetched (R100, R103). -/
def unfetched (size producer fetch : Nat) : Nat := ringDistance producer fetch size

/-- How many slots one fetch read covers: the published unfetched ones that fit in the buffer, up to the last slot of
the ring (R103, R152). -/
def fetchCount (size producer fetch buffered room : Nat) : Nat :=
  min (min (unfetched size producer fetch) (room - buffered)) (size - fetch)

/-- The admin ring is eligible for a fetch choice (R152). -/
def State.adminEligible (s : State) : Bool :=
  0 < unfetched s.admin.size s.admin.producer s.admin.fetch && s.admin.buffer.length < Config.adminPrefetchSlots

/-- Request ring `r` is eligible for a fetch choice (R103). -/
def State.ringEligible (s : State) (r : RingId) : Bool :=
  let x := s.ring r
  x.state = .active && 0 < unfetched x.config.size x.producer x.fetch && x.buffer.length < Config.prefetchSlots

/-- The context of ring `r` waits with a bulk data read not yet issued (R123). -/
def State.bulkWaiting (s : State) (r : RingId) : Bool :=
  match (s.ctx r).work with
  | .loading _ false => true
  | _ => false

/-- A read may be put on the link: the device is RUNNING and the part is a bus master (R103, R123, R173). -/
def State.readsAllowed (s : State) : Bool := s.device = .running && s.cfg.busMaster

/-- One fetch read of the admin ring into place `p` (R152). It carries no owner mark (R171). The address of a slot past
the end of the 64-bit host space wraps (log entry 37). -/
def State.issueAdminFetch (s : State) (p : PlaceId) : State :=
  let x := s.admin
  let n := fetchCount x.size x.producer x.fetch x.buffer.length Config.adminPrefetchSlots
  { s.setPlace p (some
      ⟨.adminFetch, x.base + BitVec.ofNat 64 (64 * x.fetch), 64 * n, x.fetch, 0, true, 0⟩) with
    admin := { x with fetch := (x.fetch + n) % x.size, buffer := x.buffer ++ List.replicate n none } }

/-- One fetch read of request ring `r` into place `p` (R103). The address of a slot past the end of the 64-bit host
space wraps (log entry 37). -/
def State.issueRingFetch (s : State) (p : PlaceId) (r : RingId) : State :=
  let x := s.ring r
  let n := fetchCount x.config.size x.producer x.fetch x.buffer.length Config.prefetchSlots
  { (s.setPlace p (some
      ⟨.fetch r, x.config.base + BitVec.ofNat 64 (64 * x.fetch), 64 * n, x.fetch, x.generation, true, 0⟩)).setRing r
      { x with fetch := (x.fetch + n) % x.config.size, buffer := x.buffer ++ List.replicate n none } with
    lastChosen := r }

/-- FETCH_READ_ISSUE: a free place that no bulk data read waits for goes to the Fetch Unit's choice, the admin ring
first, then the first eligible ring after the one last chosen (R103, R123, R170). -/
def execFetchReadIssue (s : State) : Host.Outcome State Fault Refusal :=
  .next
    (if s.readsAllowed && !(List.finRange 8).any s.bulkWaiting then
      match s.freePlace with
      | none => s
      | some p =>
        if s.adminEligible then s.issueAdminFetch p
        else
          match (ringsAfter s.lastChosen).find? s.ringEligible with
          | some r => s.issueRingFetch p r
          | none => s
    else s)

/-- The bulk data read of ring `r` into place `p`, marked with the ring's present generation (R123). -/
def State.issueBulkRead (s : State) (p : PlaceId) (r : RingId) : State :=
  match (s.ctx r).work with
  | .loading q _ =>
    match q.body with
    | .bulkWrite _ n h =>
      (s.setPlace p (some ⟨.bulk r, h, 16 * n, 0, (s.ring r).generation, true, 0⟩)).setWork r (.loading q true)
    | _ => s
  | _ => s

/-- BULK_DATA_READ_ISSUE: a free place goes to the lowest-numbered ring whose bulk data read waits (R123, R170). -/
def execBulkDataReadIssue (s : State) : Host.Outcome State Fault Refusal :=
  .next
    (if s.readsAllowed then
      match s.freePlace, (List.finRange 8).find? s.bulkWaiting with
      | some p, some r => s.issueBulkRead p r
      | _, _ => s
    else s)

/-! ### Faults -/

/-- A current fetch read fault on ring `r`: an ACTIVE or DRAINING ring becomes FAULTED, its buffer is emptied and a
fetch event is made pending; on any other ring it is dropped (R105). -/
def State.fetchFault (s : State) (r : RingId) : State :=
  let x := s.ring r
  if x.state = .active || x.state = .draining then
    (s.setRing r { x with state := .faulted, fetch := x.consumer, buffer := [] }).setCtx r
      { s.ctx r with event := some s.now32 }
  else s

/-- An admin fetch read fault: the device enters HALTED, where waiting contexts become ready, and ADMIN_FETCH is set
with its message (R44, R163). -/
def State.adminFetchFault (s : State) : State :=
  State.setFault { s.makeReady with device := .halted } .adminFetch

/-- A current bulk data read fault: the BULK WRITE of ring `r` ends READ_FAULT (R126). -/
def State.bulkFault (s : State) (r : RingId) : State :=
  match (s.ctx r).work with
  | .loading q true => s.finish r q.header.quiet (q.header.report .readFault .none none 0 s.now32)
  | _ => s

/-- A return is taken: the device is RUNNING and the read is current (R171, R172). -/
def State.returnTaken (s : State) (x : Read) : Bool := s.device = .running && s.isCurrent x

/-- Read `x` at place `p` returns a fault: its place is released, and a return that is taken is handled by its owner
(R171, R172, Table 9-1). -/
def State.returnFault (s : State) (p : PlaceId) (x : Read) : State :=
  let s1 := s.release p
  if s.returnTaken x then
    match x.owner with
    | .fetch r => s1.fetchFault r
    | .adminFetch => s1.adminFetchFault
    | .bulk r => s1.bulkFault r
  else s1

/-- FETCH_READ_FAULT (R105, R172). -/
def execFetchReadFault (p : PlaceId) (s : State) : Host.Outcome State Fault Refusal :=
  .next
    (match s.place p with
    | some x =>
      match x.owner with
      | .fetch _ => s.returnFault p x
      | _ => s
    | none => s)

/-- ADMIN_FETCH_READ_FAULT (R152, R163, R172). -/
def execAdminFetchReadFault (p : PlaceId) (s : State) : Host.Outcome State Fault Refusal :=
  .next
    (match s.place p with
    | some x =>
      match x.owner with
      | .adminFetch => s.returnFault p x
      | _ => s
    | none => s)

/-- BULK_DATA_FAULT (R126, R172). -/
def execBulkDataFault (p : PlaceId) (s : State) : Host.Outcome State Fault Refusal :=
  .next
    (match s.place p with
    | some x =>
      match x.owner with
      | .bulk _ => s.returnFault p x
      | _ => s
    | none => s)

/-- READ_TIMEOUT: a read not answered within 50,000 ticks of its issue returns a fault, whoever owns it (R170). -/
def execReadTimeout (p : PlaceId) (s : State) : Host.Outcome State Fault Refusal :=
  .next
    (match s.place p with
    | some x => if Config.readTimeoutTicks ≤ x.ticks then s.returnFault p x else s
    | none => s)

/-! ### Data -/

/-- The data of a fetch read reaches the buffer of ring `r` while the ring is ACTIVE, and is dropped otherwise
(R104). -/
def State.fetchData (s : State) (r : RingId) (first : Nat) (data : List Slot) : State :=
  let x := s.ring r
  if x.state = .active then
    s.setRing r { x with buffer := arriveSlots x.buffer (ringDistance first x.consumer x.config.size) data }
  else s

/-- The data of an admin fetch read reaches the admin buffer (R152). -/
def State.adminFetchData (s : State) (first : Nat) (data : List Slot) : State :=
  { s with admin := { s.admin with
      buffer := arriveSlots s.admin.buffer (ringDistance first s.admin.consumer s.admin.size) data } }

/-- The data of a bulk data read enters the staging buffer, k is set to 0 and the context enters RUNNING (R124). -/
def State.bulkData (s : State) (r : RingId) (data : List CellValue) : State :=
  let x := s.ctx r
  match x.work with
  | .loading q true =>
    s.setCtx r { x with work := .running q, staging := writeCells x.staging 0 data, progress := 0 }
  | _ => s

/-- A return with data of the wrong length is a fault (R172). Data that arrives once the read's count has reached
50,000 ticks is dropped with no effect (R170): the read's fault is READ_TIMEOUT's (log entry 39). -/
def State.returnData (s : State) (p : PlaceId) (x : Read) (bytes : Nat) (f : State → State) : State :=
  if Config.readTimeoutTicks ≤ x.ticks then s
  else if bytes = x.length then (if s.returnTaken x then f (s.release p) else s.release p)
  else s.returnFault p x

/-- FETCH_READ_RETURN (R104, R172). -/
def execFetchReadReturn (p : PlaceId) (data : List Slot) (s : State) : Host.Outcome State Fault Refusal :=
  .next
    (match s.place p with
    | some x =>
      match x.owner with
      | .fetch r => s.returnData p x (64 * data.length) (fun s => s.fetchData r x.firstSlot data)
      | _ => s
    | none => s)

/-- ADMIN_FETCH_RETURN (R152, R172). -/
def execAdminFetchReturn (p : PlaceId) (data : List Slot) (s : State) : Host.Outcome State Fault Refusal :=
  .next
    (match s.place p with
    | some x =>
      match x.owner with
      | .adminFetch => s.returnData p x (64 * data.length) (fun s => s.adminFetchData x.firstSlot data)
      | _ => s
    | none => s)

/-- BULK_DATA_RETURN (R124, R172). -/
def execBulkDataReturn (p : PlaceId) (data : List CellValue) (s : State) : Host.Outcome State Fault Refusal :=
  .next
    (match s.place p with
    | some x =>
      match x.owner with
      | .bulk r => s.returnData p x (16 * data.length) (fun s => s.bulkData r data)
      | _ => s
    | none => s)

/-! ### The fetch event and the end of draining -/

/-- The outcome of a pending fetch event with the end time of its fault (R106). -/
def fetchEventReport (t : BitVec 32) : Report := ⟨.readFault, fetchEventCode, 0, .none, none, 0, t⟩

/-- FETCH_EVENT_ENTRY: a pending fetch event enters the free holder of ring `r`'s context (R106). It does so in RUNNING
alone; that it does not enter a holder which an operation completing in RESETTING frees is the model's choice, log
entry 35 (R117 settles HALTED). -/
def execFetchEventEntry (r : RingId) (s : State) : Host.Outcome State Fault Refusal :=
  .next
    (match (s.ctx r).event with
    | some t =>
      if s.device = .running && (s.ctx r).work = .empty then
        (s.setCtx r { s.ctx r with event := none }).finish r false (fetchEventReport t)
      else s
    | none => s)

/-- DRAIN_END: a DRAINING ring whose context is EMPTY and which has no outstanding fetch read becomes STOPPED (R96).
R163 says that none does in HALTED; that none does in RESETTING either, where the operation or the read in progress may
still end, is a DESIGN CHOICE (log entry 43). -/
def execDrainEnd (r : RingId) (s : State) : Host.Outcome State Fault Refusal :=
  .next
    (if s.device = .running && (s.ring r).state = .draining && s.drained r then
      s.setRing r { s.ring r with state := .stopped }
    else s)

end Sys2Proof.Machine
end

