-- ==== Sys2Proof/Machine/Timing.lean ====
section
/-! DEFINITION. The microsecond tick and the claims that time brings (R75 to R82, R43, R146, R170). -/

namespace Sys2Proof.Machine

/-- A running holdoff timer falls by one (R145). -/
def CompletionRing.tick (x : CompletionRing) : CompletionRing := { x with timer := x.timer.map (· - 1) }

/-- A read's tick count rises (R170). -/
def Read.tick (x : Read) : Read := { x with ticks := x.ticks + 1 }

/-- MICROSECOND_TICK: the time base advances modulo 2^48 in every state and every read's count rises; the holdoff
timers run in RUNNING alone (R75, R145, R149, R170, log entry 15). -/
def execMicrosecondTick (s : State) : Host.Outcome State Fault Refusal :=
  .next { s with
    timeBase := s.timeBase + 1
    places := s.places.map (fun x => x.map Read.tick)
    crings := if s.device = .running then s.crings.map CompletionRing.tick else s.crings }

/-- EXPIRY: the Deadline Unit claims the head of the deadline list once it has expired, and the entry ends TIMEOUT
(R80 to R82); a fence it opens starts its request (R115). -/
def execExpiry (s : State) : Host.Outcome State Fault Refusal :=
  .next
    (match s.deadlines with
    | [] => s
    | e :: _ =>
      match s.entry e with
      | some x =>
        if s.device = .running && x.deadline.any (fun d => expired d s.timeBase) then
          (s.claimEnd .timeout e).releaseFence x.origin
        else s
      | none => s)

/-- WAIT_ENTRY_TIMEOUT: a context in WAIT_ENTRY whose deadline is reached ends its hold TIMEOUT, ready or not
(R43, R82). -/
def execWaitEntryTimeout (r : RingId) (s : State) : Host.Outcome State Fault Refusal :=
  .next
    (match (s.ctx r).work with
    | .waitEntry q (some d) _ =>
      if s.device = .running && expired d s.timeBase then
        s.finish r q.header.quiet (q.header.report .timeout .none none 0 s.now32)
      else s
    | _ => s)

/-- The vector of completion ring `c` (R147). -/
def cringVector (c : CRingId) : VectorId := ⟨c.val + 1, by omega⟩

/-- HOLDOFF_EXPIRY: the running timer has reached 0 with the unsignalled count above 0, so the ring's message is sent,
the count cleared and the timer stopped (R146). -/
def execHoldoffExpiry (c : CRingId) (s : State) : Host.Outcome State Fault Refusal :=
  .next
    (let x := s.cring c
    if s.device = .running && x.timer = some 0 && 0 < x.unsignalled then
      (s.setCRing c { x with unsignalled := 0, timer := none }).sendMessage (cringVector c)
    else s)

end Sys2Proof.Machine
end

