-- ==== Sys2Proof/Machine/Completions.lean ====
section
/-! DEFINITION. The Completion Writer and the posted-write path (R134 to R149, R174 to R176): COMPLETION_RECORD_WRITE,
HELD_MESSAGE_RELEASE and POSTED_WRITE_DEPART. -/

namespace Sys2Proof.Machine

/-- The outcome of a hold entry's result: kind HOLD, and count 1 when OK and 0 otherwise (R45). -/
def HoldEntry.report (x : HoldEntry) (res : HoldResult) : Report :=
  ⟨res.status, holdCode, x.tag, res.flags, res.value, if res.status = .ok then 1 else 0, res.endTime⟩

/-- The code of a request ring as a record's source (Table 11-4). -/
def ringSourceCode (r : RingId) : Byte := BitVec.ofNat 8 r.val

/-- The record of a source: its outcome, with the source ring, and the ring head as it stands at the write (R140,
R141). -/
def State.recordOf (s : State) (phase : Bool) : Source → Option RecordBytes
  | .entry e =>
    match s.entry e with
    | some x =>
      match x.state with
      | .ending res => some (formRecord phase (ringSourceCode x.origin) (s.ring x.origin).consumer (x.report res))
      | .armed => none
    | none => none
  | .ring r =>
    match (s.ctx r).work with
    | .reporting o => some (formRecord phase (ringSourceCode r) (s.ring r).consumer o)
    | _ => none
  | .admin =>
    match s.adminCtx with
    | .reporting o => some (formRecord phase adminSourceCode s.admin.consumer o)
    | _ => none

/-- The source of a written record is freed: an entry becomes FREE, a context EMPTY (R51, R111, R136 step 6). -/
def State.deliver (s : State) : Source → State
  | .entry e => s.freeEntry e
  | .ring r => s.setWork r .empty
  | .admin => { s with adminCtx := .empty }

/-- The next index of a ring of `size`. -/
def nextIndex (size k : Nat) : Nat := (k + 1) % size

/-- The unsignalled count and the timer after one more record, and whether it reaches the threshold (R145, R146,
R148). -/
def CompletionRing.countRecord (x : CompletionRing) : CompletionRing × Bool :=
  if x.intEnable then
    if x.threshold ≤ x.unsignalled + 1 then ({ x with unsignalled := 0, timer := none }, true)
    else
      ({ x with
          unsignalled := x.unsignalled + 1
          timer := if x.unsignalled = 0 && x.holdoff ≠ 0 then some x.holdoff else x.timer }, false)
  else (x, false)

/-- Completion ring `x` after the write of its head record: the list without its head, the producer index advanced
and the phase flipped at the wrap (R136 steps 3 and 4). -/
def CompletionRing.recordWritten (x : CompletionRing) : CompletionRing :=
  { x with
    list := x.list.tail
    producer := nextIndex x.size x.producer
    phase := if nextIndex x.size x.producer = 0 then !x.phase else x.phase }

/-- The write of completion ring `c`'s head record (R136): the posted write, the ring's indices and count, the
message that the count causes, and the delivery of the source. The address of a record past the end of the 64-bit host
space wraps (log entry 37). -/
def State.writeRingRecord (s : State) (c : CRingId) : State :=
  let x := s.cring c
  match x.list with
  | [] => s
  | src :: _ =>
    match s.recordOf x.phase src with
    | none => s
    | some bytes =>
      let s1 := s.handOver (.record (x.base + BitVec.ofNat 64 (32 * x.producer)) bytes)
      let y := x.recordWritten.countRecord
      let s2 := s1.setCRing c y.1
      let s3 := if y.2 then s2.sendMessage (cringVector c) else s2
      s3.deliver src

/-- The host address of the admin completion area (R132, R150), modulo 2^64 (log entry 37). -/
def State.adminRecordsBase (s : State) : HostAddr := s.admin.base + BitVec.ofNat 64 (64 * s.admin.size)

/-- The write of the admin completion area's head record; each one sends a message on vector 0 (R132, R147, R154). -/
def State.writeAdminRecord (s : State) : State :=
  let x := s.adminArea
  match x.list with
  | [] => s
  | src :: rest =>
    match s.recordOf x.phase src with
    | none => s
    | some bytes =>
      let s1 := s.handOver (.record (s.adminRecordsBase + BitVec.ofNat 64 (32 * x.producer)) bytes)
      let p := nextIndex s.admin.size x.producer
      let s2 := { s1 with adminArea :=
        { x with list := rest, producer := p, phase := if p = 0 then !x.phase else x.phase } }
      (s2.sendMessage 0).deliver src

/-- COMPLETION_RECORD_WRITE (R136). -/
def execCompletionRecordWrite (l : ListId) (s : State) : Host.Outcome State Fault Refusal :=
  .next
    (if s.mayWrite l then
      match l with
      | .admin => s.writeAdminRecord
      | .ring c => s.writeRingRecord c
    else s)

/-- HELD_MESSAGE_RELEASE: a held message takes the free place, the lowest vector first (R174). -/
def execHeldMessageRelease (s : State) : Host.Outcome State Fault Refusal :=
  .next
    (match (List.finRange 5).find? (fun v => (s.held[v]).isSome) with
    | some v => s.releaseVector v
    | none => s)

/-- What the head of the queue puts on the link as it leaves. A message that is still there while message-signalled
interrupts are disabled is dropped (R176). -/
def PostedWrite.departs (w : PostedWrite) (msiEnable : Bool) : List LinkItem :=
  if w.isMessage && !msiEnable then [] else [.posted w]

/-- POSTED_WRITE_DEPART: the head of the queue leaves while the part is a bus master, in every device state (R173 to
R176); a reply that waited for it alone follows (R181), and the messages that then reach the head are dropped while
message-signalled interrupts are disabled (R176). -/
def execPostedWriteDepart (s : State) : Host.Outcome State Fault Refusal :=
  .next
    (if s.cfg.busMaster then
      match s.postq with
      | [] => s
      | w :: rest =>
        State.removeFirst { s with link := s.link ++ w.departs s.cfg.msiEnable }
          (1 + droppedMessages s.cfg.msiEnable rest)
    else s)

end Sys2Proof.Machine
end

