-- ==== Sys2Proof/Machine/Admin.lean ====
section
/-! DEFINITION. The admin requests (R86, R92 to R99, R129, R131, R133, R150 to R160, R184). -/

namespace Sys2Proof.Machine

/-! ### Taking and ending an admin request -/

/-- The oldest admin slot, when the admin context may take a record: the device is RUNNING, the context EMPTY, and
the slot has arrived (R153). -/
def State.oldestAdmin (s : State) : Option Slot :=
  if s.device = .running && s.adminCtx = .empty then
    match s.admin.buffer with
    | some x :: _ => some x
    | _ => none
  else none

/-- The oldest admin slot leaves the buffer and the admin consumer index moves past it (R153). -/
def State.consumeAdmin (s : State) : State :=
  { s with admin := { s.admin with
      consumer := (s.admin.consumer + 1) % s.admin.size, buffer := s.admin.buffer.tail } }

/-- The admin request in slot `x` ends with a status, a count and a value (R154). -/
def State.endAdmin (s : State) (x : Slot) (st : Status) (n : Nat := 0) (v : Option CellValue := none) : State :=
  s.finishAdmin ⟨st, slotKind x, slotTag x, .none, v, n, s.now32⟩

/-- The oldest admin record is taken when it is of a given kind, `none` standing for an unknown one, and carried out
by `f` (R153). -/
def State.takeAdmin (s : State) (k : Option AdminKind) (f : State → Slot → State) : State :=
  match s.oldestAdmin with
  | some x => if adminKind (slotKind x) = k then f s.consumeAdmin x else s
  | none => s

/-! ### Request rings -/

/-- Ring `r` may be configured (R93). -/
def State.canConfigure (s : State) (r : RingId) : Bool :=
  let x := s.ring r
  (x.state = .unconfigured || x.state = .ready || x.state = .stopped) && s.occ r = 0
    && (s.ctx r).work = .empty && !s.barred r

/-- A taken CONFIGURE REQUEST RING (R93). -/
def State.installRing (s : State) (r : RingId) (g : RingConfig) : State :=
  s.setRing r ⟨.ready, g, 0, 0, 0, (s.ring r).generation + 1, []⟩

/-- CONFIGURE REQUEST RING by the steps of R153 (R93, R155, R156). -/
def State.configureRing (s : State) (x : Slot) : State :=
  match ringNumber (slotByte x 8) with
  | none => s.endAdmin x .badRequest
  | some r =>
    match decodeRingConfig x with
    | none => s.endAdmin x .badConfig
    | some g =>
      if s.canConfigure r then (s.installRing r g).endAdmin x .ok else s.endAdmin x .ringState

/-- START RING (R94, R155). -/
def State.startRing (s : State) (x : Slot) : State :=
  match ringNumber (slotByte x 8) with
  | none => s.endAdmin x .badRequest
  | some r =>
    if (s.ring r).state = .ready || (s.ring r).state = .stopped then
      (s.setRing r { s.ring r with state := .active }).endAdmin x .ok
    else s.endAdmin x .ringState

/-- An ACTIVE ring enters DRAINING with its prefetched slots discarded, and passes on into STOPPED when nothing is
left to drain (R95, R96). -/
def State.stopActive (s : State) (r : RingId) : State :=
  let y := s.ring r
  s.setRing r { y with
    state := if s.drained r then .stopped else .draining, fetch := y.consumer, buffer := [] }

/-- STOP RING (R95, R155). -/
def State.stopRing (s : State) (x : Slot) : State :=
  match ringNumber (slotByte x 8) with
  | none => s.endAdmin x .badRequest
  | some r =>
    match (s.ring r).state with
    | .active => (s.stopActive r).endAdmin x .ok
    | .draining => s.endAdmin x .ok
    | .stopped => s.endAdmin x .ok
    | .unconfigured => s.endAdmin x .ringState
    | .ready => s.endAdmin x .ringState
    | .faulted => s.endAdmin x .ringState

/-- Request `q` is a bulk transfer. -/
def Request.isBulk (q : Request) : Bool :=
  match q.body with
  | .bulkRead _ _ _ => true
  | .bulkWrite _ _ _ => true
  | _ => false

/-- The count and the CHANGED flag of a request that a ring reset ends in RUNNING (R98, R127). -/
def RingContext.abortCount (x : RingContext) (q : Request) : Nat × Bool :=
  match q.body with
  | .bulkRead _ _ _ => (x.progress, false)
  | .bulkWrite _ _ _ => (x.progress, x.changedMark)
  | _ => (0, false)

/-- The context of ring `r` ends request `q` ABORTED (R98, R127); a bulk request's progress count becomes 0 (R119). -/
def State.abortRequest (s : State) (r : RingId) (q : Request) (n : Nat) (changed : Bool) : State :=
  let s1 := if q.isBulk then s.setCtx r { s.ctx r with progress := 0 } else s
  s1.finish r q.header.quiet (q.header.report .aborted ⟨changed, false, false⟩ none n s.now32)

/-- The context of ring `r` at RESET RING (Table 5-3). -/
def State.abortContext (s : State) (r : RingId) : State :=
  match (s.ctx r).work with
  | .empty => s
  | .waitFence q => s.abortRequest r q 0 false
  | .waitEntry q _ _ => s.abortRequest r q 0 false
  | .running q => s.abortRequest r q ((s.ctx r).abortCount q).1 ((s.ctx r).abortCount q).2
  | .loading q _ => s.abortRequest r q 0 false
  | .reporting _ => s

/-- Ring `r` with the values of a reset: the generation raised, the indices 0, the buffer empty, READY, and no event
pending (R97). -/
def State.resetIndices (s : State) (r : RingId) : State :=
  let y := s.ring r
  (s.setRing r ⟨.ready, y.config, 0, 0, 0, y.generation + 1, []⟩).setCtx r { s.ctx r with event := none }

/-- The entries that the abort claim of ring `r` ends: ARMED, of ring `r`, with the generation before the reset
(R88). -/
def State.abortMatches (s : State) (r : RingId) : List EntryId :=
  s.armedEntries (fun y => y.origin = r && y.generation = (s.ring r).generation)

/-- A taken RESET RING: the ring, the abort claim, then the context (R88, R97, R98). -/
def State.resetTaken (s : State) (r : RingId) : State :=
  ((s.resetIndices r).claimAll .aborted (s.abortMatches r)).abortContext r

/-- RESET RING (R97, R155). -/
def State.resetRing (s : State) (x : Slot) : State :=
  match ringNumber (slotByte x 8) with
  | none => s.endAdmin x .badRequest
  | some r =>
    if (s.ring r).state = .unconfigured || s.barred r then s.endAdmin x .ringState
    else (s.resetTaken r).endAdmin x .ok

/-! ### Completion rings -/

/-- CONFIGURE COMPLETION RING (R131, R155, R157). -/
def State.configureCRing (s : State) (x : Slot) : State :=
  match cringNumber (slotByte x 8) with
  | none => s.endAdmin x .badRequest
  | some c =>
    match decodeCRingConfig x (s.cring c).list with
    | none => s.endAdmin x .badConfig
    | some y => if (s.cring c).active then s.endAdmin x .ringState else (s.setCRing c y).endAdmin x .ok

/-- A request ring mapped to completion ring `c` is ACTIVE or DRAINING (R133). -/
def State.mappedBusy (s : State) (c : CRingId) : Bool :=
  (List.finRange 8).any (fun r =>
    (s.ring r).config.cring = c && ((s.ring r).state = .active || (s.ring r).state = .draining))

/-- A source's outcome is discarded without a record: an ENDING entry becomes FREE, a context EMPTY (R52, R113,
R133). -/
def State.discard (s : State) : Source → State
  | .entry e => s.freeEntry e
  | .ring r => s.setWork r .empty
  | .admin => s

/-- A taken RESET COMPLETION RING (R133). -/
def State.resetCRingTaken (s : State) (c : CRingId) : State :=
  ((s.cring c).list.foldl State.discard s).setCRing c .reset

/-- RESET COMPLETION RING (R133, R155, R158). -/
def State.resetCRing (s : State) (x : Slot) : State :=
  match cringNumber (slotByte x 8) with
  | none => s.endAdmin x .badRequest
  | some c => if s.mappedBusy c then s.endAdmin x .ringState else (s.resetCRingTaken c).endAdmin x .ok

/-! ### CANCEL HOLDS, CLEAR CELLS, READ STATUS -/

/-- The context of ring `r` waits in WAIT_ENTRY with a hold whose tag matches (R86). -/
def State.waitingMatch (s : State) (value mask : BitVec 16) (r : RingId) : Bool :=
  match (s.ctx r).work with
  | .waitEntry q _ _ => tagMatches value mask q.header.tag
  | _ => false

/-- The waiting hold of ring `r`'s context ends CANCELLED (R86 step 2). -/
def State.cancelWaiting (s : State) (r : RingId) : State :=
  match (s.ctx r).work with
  | .waitEntry q _ _ => s.finish r q.header.quiet (q.header.report .cancelled .none none 0 s.now32)
  | _ => s

/-- The cancel claim over the rings `rs`: their matching ARMED entries, then their matching waiting holds, and then
the fences that the claim opened (R86, R115). When the claim opens the fences of several rings, they open in ascending
ring number, so that their requests start and the outcomes of their NOPs and CANCELs join a shared list in that order:
the model's choice, log entry 34 (R86, R115 and R135 give no order among rings). -/
def State.cancelRings (s : State) (rs : List RingId) (value mask : BitVec 16) : State :=
  let s1 := s.claimAll .cancelled (s.cancelMatches rs value mask)
  let s2 := (rs.filter (s.waitingMatch value mask)).foldl State.cancelWaiting s1
  s2.releaseFences rs

/-- CANCEL HOLDS (R86, R158). -/
def State.cancelHoldsRequest (s : State) (x : Slot) : State :=
  match ringSelector (slotByte x 8) with
  | none => s.endAdmin x .badRequest
  | some rs =>
    let value := slotHalf x 32
    let mask := slotHalf x 48
    (s.cancelRings rs value mask).endAdmin x .ok
      ((s.cancelMatches rs value mask).length + (rs.filter (s.waitingMatch value mask)).length)

/-- CLEAR CELLS: its range is checked and the admin context enters RUNNING (R129, R159, R184). -/
def State.clearCellsRequest (s : State) (x : Slot) : State :=
  let f := (slotHalf x 6).toNat
  let n := (slotHalf x 8).toNat
  if n < 1 || 4096 < n || 4096 < f + n then s.endAdmin x .badConfig
  else { s with adminCtx := .running (slotKind x) (slotTag x) f n 0 false }

/-- The device value of READ STATUS (Tables 8-2 and 11-5). -/
def State.deviceStatus (s : State) : CellValue :=
  (0 : BitVec 32) ++ s.now32 ++ BitVec.ofNat 16 s.deadlines.length ++ BitVec.ofNat 16 s.wakeQueue.length
    ++ BitVec.ofNat 16 s.totalOccupancy ++ (0 : Byte) ++ s.device.code

/-- The value of a request ring (Tables 8-2 and 11-5). -/
def State.ringStatus (s : State) (r : RingId) : CellValue :=
  (0 : BitVec 48) ++ BitVec.ofNat 16 (s.occ r) ++ BitVec.ofNat 16 (s.ring r).consumer
    ++ BitVec.ofNat 16 (s.ring r).producer ++ (0 : Byte) ++ (s.ring r).generation ++ (s.ctx r).work.code
    ++ (s.ring r).state.code

/-- The value of a completion ring (Tables 8-2 and 11-5). -/
def State.cringStatus (s : State) (c : CRingId) : CellValue :=
  (0 : BitVec 48) ++ BitVec.ofNat 16 (s.cring c).list.length ++ BitVec.ofNat 16 (s.cring c).consumer
    ++ BitVec.ofNat 16 (s.cring c).producer ++ (0 : BitVec 16) ++ BitVec.ofNat 8 (s.cring c).unsignalled
    ++ bitByte (s.cring c).active

/-- The value a status selector names, or none (Table 11-3, R160). -/
def State.statusValueOf (s : State) (sel : Byte) : Option CellValue :=
  if sel = 0 then some s.deviceStatus
  else if h : 0x10 ≤ sel.toNat ∧ sel.toNat < 0x18 then some (s.ringStatus ⟨sel.toNat - 0x10, by omega⟩)
  else if h : 0x20 ≤ sel.toNat ∧ sel.toNat < 0x24 then some (s.cringStatus ⟨sel.toNat - 0x20, by omega⟩)
  else none

/-- READ STATUS (R160). -/
def State.readStatusRequest (s : State) (x : Slot) : State :=
  match s.statusValueOf (slotByte x 8) with
  | none => s.endAdmin x .badRequest
  | some v => s.endAdmin x .ok 0 (some v)

/-! ### The commands -/

/-- ADMIN_NOP (R155). -/
def execAdminNop (s : State) : Host.Outcome State Fault Refusal :=
  .next (s.takeAdmin (some .nop) (fun s x => s.endAdmin x .ok))

/-- ADMIN_UNKNOWN_KIND (R153). -/
def execAdminUnknownKind (s : State) : Host.Outcome State Fault Refusal :=
  .next (s.takeAdmin none (fun s x => s.endAdmin x .badRequest))

/-- CONFIGURE_REQUEST_RING (R93). -/
def execConfigureRequestRing (s : State) : Host.Outcome State Fault Refusal :=
  .next (s.takeAdmin (some .configureRequestRing) State.configureRing)

/-- CONFIGURE_COMPLETION_RING (R131). -/
def execConfigureCompletionRing (s : State) : Host.Outcome State Fault Refusal :=
  .next (s.takeAdmin (some .configureCompletionRing) State.configureCRing)

/-- START_RING (R94). -/
def execStartRing (s : State) : Host.Outcome State Fault Refusal :=
  .next (s.takeAdmin (some .startRing) State.startRing)

/-- STOP_RING (R95). -/
def execStopRing (s : State) : Host.Outcome State Fault Refusal :=
  .next (s.takeAdmin (some .stopRing) State.stopRing)

/-- RESET_RING (R97). -/
def execResetRing (s : State) : Host.Outcome State Fault Refusal :=
  .next (s.takeAdmin (some .resetRing) State.resetRing)

/-- RESET_COMPLETION_RING (R133). -/
def execResetCompletionRing (s : State) : Host.Outcome State Fault Refusal :=
  .next (s.takeAdmin (some .resetCompletionRing) State.resetCRing)

/-- CANCEL_HOLDS (R86). -/
def execCancelHolds (s : State) : Host.Outcome State Fault Refusal :=
  .next (s.takeAdmin (some .cancelHolds) State.cancelHoldsRequest)

/-- CLEAR_CELLS (R129, R159). -/
def execClearCells (s : State) : Host.Outcome State Fault Refusal :=
  .next (s.takeAdmin (some .clearCells) State.clearCellsRequest)

/-- READ_STATUS (R160). -/
def execReadStatus (s : State) : Host.Outcome State Fault Refusal :=
  .next (s.takeAdmin (some .readStatus) State.readStatusRequest)

end Sys2Proof.Machine
end

