-- ==== Sys2Proof/Machine/CellPort.lean ====
section
/-! DEFINITION. The cell-port operations (R15 to R17): UPDATE_OPERATION, HOLD_ARRIVAL, HOLD_RETRY, SCAN_STEP,
BULK_READ_CELL, BULK_WRITE_CELL and CLEAR_CELLS_CELL. Each is whole in one step, under the arbiter's grant. -/

namespace Sys2Proof.Machine

/-! ### Updates and holds -/

/-- The update of an UPDATE with its outcome and its change report (R22, R23). -/
def State.runUpdate (s : State) (r : RingId) (h : Header) (act : Action) : State :=
  let x := performAction s.mem act
  (State.finish { s with mem := x.mem } r h.quiet
    (h.report .ok x.flags (actionValue act x.old 0 h.ret) 1 s.now32)).reportIf x.flags.changed act.target

/-- UPDATE_OPERATION (R23). -/
def execUpdateOperation (r : RingId) (s : State) : Host.Outcome State Fault Refusal :=
  .next
    (match (s.ctx r).work with
    | .running ⟨h, .update act⟩ =>
      match s.grant (.ring r) with
      | some s1 => s1.runUpdate r h act
      | none => s
    | _ => s)

/-- A hold whose condition holds at its arrival or retry: the action is performed and the request ends OK (R36).
`w` is the watched cell as evaluated. -/
def State.fireAtArrival (s : State) (r : RingId) (h : Header) (act : Action) (w : CellValue) : State :=
  let x := performAction s.mem act
  (State.finish { s with mem := x.mem } r h.quiet
    (h.report .ok x.flags (actionValue act x.old w h.ret) 1 s.now32)).reportIf x.flags.changed act.target

/-- A hold whose condition does not hold and which may wait: QUOTA, or WAIT_ENTRY, or an armed entry (R38). -/
def State.armOrWait (s : State) (r : RingId) (q : Request) (act : Action) (cond : Condition) (d : Option Time) :
    State :=
  if (s.ring r).config.quota ≤ s.occ r then
    s.finish r q.header.quiet (q.header.report .quota .none none 0 s.now32)
  else
    match s.firstFree with
    | none => s.setWork r (.waitEntry q d false)
    | some e => (s.arm r q.header act cond d e).setWork r .empty

/-- The arrival of a hold (R35 to R38). -/
def State.holdArrival (s : State) (r : RingId) (q : Request) (act : Action) (cond : Condition)
    (timeout : BitVec 32) : State :=
  let w := readCell s.mem cond.cell
  if cond.holds w then s.fireAtArrival r q.header act w
  else if timeout = 0 then
    s.finish r q.header.quiet
      (q.header.report .notMet .none (if q.header.ret then some w else none) 0 s.now32)
  else s.armOrWait r q act cond (deadlineAt s.timeBase timeout)

/-- HOLD_ARRIVAL (R35). -/
def execHoldArrival (r : RingId) (s : State) : Host.Outcome State Fault Refusal :=
  .next
    (match (s.ctx r).work with
    | .running ⟨h, .hold act cond timeout⟩ =>
      match s.grant (.ring r) with
      | some s1 => s1.holdArrival r ⟨h, .hold act cond timeout⟩ act cond timeout
      | none => s
    | _ => s)

/-- The retry of a waiting hold with the deadline of its first evaluation (R42). -/
def State.holdRetry (s : State) (r : RingId) (q : Request) (act : Action) (cond : Condition) (d : Option Time) :
    State :=
  let w := readCell s.mem cond.cell
  if cond.holds w then s.fireAtArrival r q.header act w
  else if d.any (fun x => expired x s.timeBase) then
    s.finish r q.header.quiet (q.header.report .timeout .none none 0 s.now32)
  else s.armOrWait r q act cond d

/-- HOLD_RETRY (R42). -/
def execHoldRetry (r : RingId) (s : State) : Host.Outcome State Fault Refusal :=
  .next
    (match (s.ctx r).work with
    | .waitEntry ⟨h, .hold act cond timeout⟩ d true =>
      match s.grant (.ring r) with
      | some s1 => s1.holdRetry r ⟨h, .hold act cond timeout⟩ act cond d
      | none => s
    | _ => s)

/-! ### The scan step -/

/-- The firing of the entry at the position (R64): the action, the entry's leave of its lists, its ENDING or FREE
state, then the change report. `w` is the watched cell as evaluated. -/
def State.fireEntry (s : State) (e : EntryId) (x : HoldEntry) (w : CellValue) : State :=
  let a := performAction s.mem x.act
  let s1 := State.dropEntry { s with mem := a.mem } e x.cond.cell
  let s2 :=
    if x.quiet then s1.freeEntry e
    else s1.endWith e x ⟨.ok, a.flags, actionValue x.act a.old w x.ret, s.now32⟩
  s2.reportIf a.flags.changed x.act.target

/-- The test of the entry at the position, and the move of the position to the entry that stood behind it (R64,
R65). A firing that brings its ring's ARMED count to 0 opens the ring's fence (R115). -/
def State.testEntry (s : State) (c : CellId) (e : EntryId) (x : HoldEntry) : State :=
  let next := successor e (s.watchList c)
  let w := readCell s.mem c
  if x.cond.holds w then ((s.fireEntry e x w).moveOn c next).releaseFence x.origin
  else s.moveOn c next

/-- SCAN_STEP (R64 to R67). -/
def execScanStep (s : State) : Host.Outcome State Fault Refusal :=
  .next
    (match s.scan with
    | .scanning c e =>
      match s.entry e with
      | some x =>
        if x.isArmed then
          match s.grant .scan with
          | some s1 => s1.testEntry c e x
          | none => s
        else s
      | none => s
    | .idle => s)

/-! ### Bulk transfers and clears -/

/-- One cell of a BULK READ goes into the staging buffer and k rises (R120). -/
def State.stageCell (s : State) (r : RingId) (cell k : Nat) : State :=
  let x := s.ctx r
  s.setCtx r { x with staging := writeCell x.staging k (readCell s.mem cell), progress := k + 1 }

/-- The end of a BULK READ: its data write is handed over, then its outcome is decided (R121). -/
def State.endBulkRead (s : State) (r : RingId) (h : Header) (n : Nat) (host : HostAddr) : State :=
  (s.handOver (.bulkData host (readCells (s.ctx r).staging 0 n))).finish r h.quiet
    (h.report .ok .none none n s.now32)

/-- BULK_READ_CELL (R120, R121). The last cell completed in RESETTING hands over no write and decides no outcome
(R128). -/
def execBulkReadCell (r : RingId) (s : State) : Host.Outcome State Fault Refusal :=
  match (s.ctx r).work with
  | .running ⟨h, .bulkRead f n host⟩ =>
    let k := (s.ctx r).progress
    if k < n then
      match s.grant (.ring r) with
      | some s1 =>
        if 4096 ≤ f + k then .fault .cellOutsideStore
        else
          let s2 := s1.stageCell r (f + k) k
          .next (if k + 1 < n || s.device = .resetting then s2 else s2.endBulkRead r h n host)
      | none => .next s
    else .next s
  | _ => .next s

/-- One staged cell of a BULK WRITE is stored, the changed mark kept and k raised (R125). -/
def State.storeStaged (s : State) (r : RingId) (cell k : Nat) : State × Bool :=
  let x := s.ctx r
  let y := storeCell s.mem cell (readCell x.staging k)
  (State.setCtx { s with mem := y.1 } r { x with progress := k + 1, changedMark := x.changedMark || y.2 }, y.2)

/-- The end of a BULK WRITE: OK with CHANGED equal to the changed mark (R125). -/
def State.endBulkWrite (s : State) (r : RingId) (h : Header) (n : Nat) : State :=
  s.finish r h.quiet (h.report .ok ⟨(s.ctx r).changedMark, false, false⟩ none n s.now32)

/-- BULK_WRITE_CELL (R125). -/
def execBulkWriteCell (r : RingId) (s : State) : Host.Outcome State Fault Refusal :=
  match (s.ctx r).work with
  | .running ⟨h, .bulkWrite f n _⟩ =>
    let k := (s.ctx r).progress
    if k < n then
      match s.grant (.ring r) with
      | some s1 =>
        if hc : f + k < 4096 then
          let y := s1.storeStaged r (f + k) k
          let s2 := if k + 1 < n then y.1 else y.1.endBulkWrite r h n
          .next (s2.reportIf y.2 ⟨f + k, hc⟩)
        else .fault .cellOutsideStore
      | none => .next s
    else .next s
  | _ => .next s

/-- The admin context after a clear: k rises and the changed mark is kept, and the last cell ends the request with
CHANGED equal to the mark (R129). -/
def State.advanceClear (s : State) (kind : Byte) (tag : BitVec 16) (f n k : Nat) (changed : Bool) : State :=
  if k + 1 < n then { s with adminCtx := .running kind tag f n (k + 1) changed }
  else s.finishAdmin ⟨.ok, kind, tag, ⟨changed, false, false⟩, none, n, s.now32⟩

/-- CLEAR_CELLS_CELL (R129, R130, R159). -/
def execClearCellsCell (s : State) : Host.Outcome State Fault Refusal :=
  match s.adminCtx with
  | .running kind tag f n k changed =>
    if k < n then
      match s.grant .admin with
      | some s1 =>
        if hc : f + k < 4096 then
          let y := storeCell s1.mem (f + k) 0
          let s2 := State.advanceClear { s1 with mem := y.1 } kind tag f n k (changed || y.2)
          .next (s2.reportIf y.2 ⟨f + k, hc⟩)
        else .fault .cellOutsideStore
      | none => .next s
    else .next s
  | _ => .next s

end Sys2Proof.Machine
end

