-- ==== Sys2Proof/Machine/Device.lean ====
section
/-! DEFINITION. Resets and device states (R162 to R169, R175): POWER_ON_RESET, LINK_RESET, RESET_VALUES_TAKEN,
CONFIGURATION_SPACE_WRITE, and the shared entry to RESETTING and to RUNNING. -/

namespace Sys2Proof.Machine

/-- Every outstanding read with its device mark no longer current (R167 step 4, R171). -/
def State.markReadsStale (s : State) : State :=
  { s with places := s.places.map (fun x => x.map (fun y => { y with deviceMark := false })) }

/-- The operation in progress at the entry to RESETTING: when the sender says that one is (`mid`), the one that the
arbiter's decision names (R21, R167 step 3, log entry 10). -/
def State.operationInProgress (s : State) (mid : Bool) : Option Requester :=
  if mid && s.device = .running then s.chosen else none

/-- The entry to RESETTING (R167). In RESETTING the reset in progress goes on (R164). -/
def State.enterResetting (s : State) (mid : Bool) : State :=
  if s.device = .resetting then s
  else
    let q := s.operationInProgress mid
    let s1 := match q with
      | some x => s.chargeGrant x
      | none => s
    { s1.markReadsStale with device := .resetting, portOp := q }

/-- The values of Table 8-4, taken at the end of RESETTING: cells, configuration space, outstanding reads and
handed-over writes are kept (R1, R168, R175, R176). -/
def State.functionReset (s : State) : State :=
  { State.reset with
    pending := s.pending
    mem := s.mem
    cfg := s.cfg
    places := s.places
    postq := s.postq
    held := s.held
    replies := s.replies
    link := s.link }

/-- The admin base: the two base registers with the six lowest bits taken as zero (R150). -/
def State.adminBase (s : State) : HostAddr := (s.adminBaseHigh ++ s.adminBaseLow) &&& ~~~(0x3F : HostAddr)

/-- ENABLE in IDLE: the entry to RUNNING, or CONFIG_ERROR when ADMIN SIZE is not valid (R162). -/
def State.enable (s : State) : State :=
  if adminSizeValid s.adminSize.toNat then
    { s with
      device := .running
      admin := { AdminRing.reset with base := s.adminBase, size := s.adminSize.toNat }
      adminCtx := .empty
      adminArea := .reset }
  else s.setFault .configError

/-- A write of CONTROL by its bits (R164, R186). -/
def State.controlWrite (s : State) (w : Word32) (mid : Bool) : State :=
  if w.getLsbD 1 then s.enterResetting mid
  else if w.getLsbD 0 && s.device = .idle then s.enable
  else s

/-- POWER_ON_RESET: the reset state (R168). -/
def execPowerOnReset (s : State) : Host.Outcome State Fault Refusal := .next { State.reset with pending := s.pending }

/-- LINK_RESET: a link reset or hot reset enters RESETTING from any state, or joins a reset in progress; the
posted-write queue is emptied, the read places are freed, and the message enables and the bus master enable are
cleared (R164, R175, R176). A message held is lost with the queue (R174), a waiting reply too (log entry 17). One that
joins a RESETTING which a write of CONTROL.RESET entered empties the queue and frees the places as well: the model's
choice, log entry 36 (R175 speaks of the entry alone). The message address and data are kept: the model's choice, log
entry 41 (R176 names only the enables). -/
def execLinkReset (mid : Bool) (s : State) : Host.Outcome State Fault Refusal :=
  let s1 := s.enterResetting mid
  .next { s1 with
    postq := []
    held := .replicate 5 none
    replies := []
    places := .replicate 16 none
    cfg := { s1.cfg with busMaster := false, msiEnable := false, msiLog2 := 0 } }

/-- RESET_VALUES_TAKEN: in RESETTING, once no cell-port operation is in progress, every block takes its reset values
and the device enters IDLE (R167, R168). -/
def execResetValuesTaken (s : State) : Host.Outcome State Fault Refusal :=
  .next (if s.device = .resetting && s.portOp = none then s.functionReset else s)

/-- Every waiting read reply is sent, ahead of the writes still queued (R181). -/
def State.sendAllReplies (s : State) : State :=
  { s with replies := [], link := s.link ++ s.replies.map (fun y => LinkItem.reply y.bytes) }

/-- CONFIGURATION_SPACE_WRITE: the new enables stand (R173, R176). With bus mastering disabled the queue does not
move and a waiting read reply is sent at once (R181, log entry 17). With message-signalled interrupts disabled, a
message that stands at the head is dropped (R176, log entry 38). -/
def execConfigurationSpaceWrite (cfg : ConfigSpace) (s : State) : Host.Outcome State Fault Refusal :=
  let s1 := { s with cfg := cfg }
  .next (State.dropMessages (if cfg.busMaster then s1 else s1.sendAllReplies))

end Sys2Proof.Machine
end

