-- ==== Sys2Proof/WellFormed.lean ====
section
/-! DEFINITION. Which commands are instances of their row of the table: the words that each register row stands for
and the sizes that a return can have. -/

namespace Sys2Proof

/-- The selector field of a word written to INDEX POST (R186). -/
def Instr.postSelector (w : Word32) : BitVec 8 := w.extractLsb' 16 8

/-- A selector that R178's table lists. -/
def Instr.listedSelector (sel : BitVec 8) : Bool :=
  sel.toNat ≤ 0x08 || (0x10 ≤ sel.toNat && sel.toNat ≤ 0x13) || sel.toNat == 0x18

/-- A register offset whose writes R177 ignores: IDENT, STATUS, TIME LOW, TIME HIGH and the reserved offsets. -/
def Instr.ignoredOffset (offset : Nat) : Bool :=
  offset == 0x00 || offset == 0x08 || offset == 0x20 || offset == 0x24 || (0x28 ≤ offset && offset ≤ 0x3C)

/-- A command is well formed when its operands are those of its row. Operands that the types already bound are not
checked again. -/
def Instr.wellFormed : Instr → Bool
  | .controlEnable w => w.getLsbD 0 && !w.getLsbD 1
  | .controlReset w _ => w.getLsbD 1
  | .requestRingProducerPost w =>
      (Instr.postSelector w).toNat ≤ 0x07 || !Instr.listedSelector (Instr.postSelector w)
  | .adminProducerPost w => Instr.postSelector w == 0x08#8 || !Instr.listedSelector (Instr.postSelector w)
  | .completionConsumerPost w =>
      (0x10 ≤ (Instr.postSelector w).toNat && (Instr.postSelector w).toNat ≤ 0x13)
        || !Instr.listedSelector (Instr.postSelector w)
  | .adminCompletionConsumerPost w =>
      Instr.postSelector w == 0x18#8 || !Instr.listedSelector (Instr.postSelector w)
  | .timeLowRead first count => first ≤ 0x3F && 1 ≤ count && first % 4 + count ≤ 4
  | .registerWriteIgnored offset size _ =>
      offset ≤ 0x3C && offset % 4 == 0 && ((1 ≤ size && size ≤ 3) || (size == 4 && Instr.ignoredOffset offset))
  | .fetchReadReturn _ data => 1 ≤ data.length && data.length ≤ 4
  | .adminFetchReturn _ data => 1 ≤ data.length && data.length ≤ 2
  | .bulkDataReturn _ data => 1 ≤ data.length && data.length ≤ 64
  | .powerOnReset => true
  | .linkReset _ => true
  | .resetValuesTaken => true
  | .faultWrite _ => true
  | .adminBaseLowWrite _ => true
  | .adminBaseHighWrite _ => true
  | .adminSizeWrite _ => true
  | .microsecondTick => true
  | .expiry => true
  | .waitEntryTimeout _ => true
  | .holdoffExpiry _ => true
  | .readTimeout _ => true
  | .fetchReadIssue => true
  | .fetchReadFault _ => true
  | .adminFetchReadFault _ => true
  | .bulkDataReadIssue => true
  | .bulkDataFault _ => true
  | .nop _ => true
  | .unknownKind _ => true
  | .update _ => true
  | .updateOperation _ => true
  | .hold _ => true
  | .holdArrival _ => true
  | .holdRetry _ => true
  | .scanStep => true
  | .bulkRead _ => true
  | .bulkReadCell _ => true
  | .bulkWrite _ => true
  | .bulkWriteCell _ => true
  | .cancel _ => true
  | .fetchEventEntry _ => true
  | .drainEnd _ => true
  | .completionRecordWrite _ => true
  | .heldMessageRelease => true
  | .postedWriteDepart => true
  | .adminNop => true
  | .adminUnknownKind => true
  | .configureRequestRing => true
  | .configureCompletionRing => true
  | .startRing => true
  | .stopRing => true
  | .resetRing => true
  | .resetCompletionRing => true
  | .cancelHolds => true
  | .clearCells => true
  | .clearCellsCell => true
  | .readStatus => true
  | .configurationSpaceWrite _ => true

end Sys2Proof
end

