-- ==== Sys2Proof/Machine/Registers.lean ====
section
/-! DEFINITION. The register window (R177 to R179, R181, R186): the CONTROL, FAULT and admin register writes, INDEX POST
with its posts (R100, R138, R151), the ignored writes, and the register reads with the values they return. -/

namespace Sys2Proof.Machine

/-! ### Values that reads return -/

/-- STATUS: the device state code in bits 0 to 1 and the total occupancy in bits 16 to 24 (R165, R186). -/
def State.statusValue (s : State) : Word32 := BitVec.ofNat 32 (s.device.code.toNat + 65536 * s.totalOccupancy)

/-- FAULT: bits 0 to 2 (R166, Table 11-13). -/
def FaultBits.value (f : FaultBits) : Word32 :=
  (bitByte f.adminFetch ||| (bitByte f.postError <<< 1) ||| (bitByte f.configError <<< 2)).setWidth 32

/-- The value a read of the register at an offset returns (R177, R186). -/
def State.readRegister (s : State) (offset : Nat) : Word32 :=
  match offset with
  | 0x00 => Config.identValue
  | 0x08 => s.statusValue
  | 0x0C => s.fault.value
  | 0x10 => s.adminBaseLow
  | 0x14 => s.adminBaseHigh
  | 0x18 => s.adminSize
  | 0x20 => s.now32
  | 0x24 => s.timeSnapshot.setWidth 32
  | _ => 0

/-! ### INDEX POST -/

/-- The index field of a word written to INDEX POST (R186). -/
def postIndex (w : Word32) : Nat := (w.extractLsb' 0 12).toNat

/-- A producer-index post to a ring with the given size and indices is taken (R100): the index lies below the size
and does not withdraw a fetched slot. -/
def producerPostOk (size consumer fetch p : Nat) : Bool :=
  p < size && ringDistance fetch consumer size ≤ ringDistance p consumer size

/-- A consumer-index post is taken: the index lies in the stretch of written records (R138). -/
def consumerPostOk (size consumer producer k : Nat) : Bool :=
  k < size && ringDistance k consumer size ≤ ringDistance producer consumer size

/-- A producer-index post to request ring `r` (R100). -/
def State.postRequestProducer (s : State) (r : RingId) (p : Nat) : State :=
  let x := s.ring r
  if x.state ≠ .unconfigured && producerPostOk x.config.size x.consumer x.fetch p then
    s.setRing r { x with producer := p }
  else s.setFault .postError

/-- A producer-index post to the admin ring (R151). -/
def State.postAdminProducer (s : State) (p : Nat) : State :=
  if producerPostOk s.admin.size s.admin.consumer s.admin.fetch p then
    { s with admin := { s.admin with producer := p } }
  else s.setFault .postError

/-- A consumer-index post to completion ring `c` (R138). -/
def State.postConsumer (s : State) (c : CRingId) (k : Nat) : State :=
  let x := s.cring c
  if x.active && consumerPostOk x.size x.consumer x.producer k then s.setCRing c { x with consumer := k }
  else s.setFault .postError

/-- A consumer-index post to the admin completion area, with N as its size (R138, R178). -/
def State.postAdminConsumer (s : State) (k : Nat) : State :=
  if consumerPostOk s.admin.size s.adminArea.consumer s.adminArea.producer k then
    { s with adminArea := { s.adminArea with consumer := k } }
  else s.setFault .postError

/-- A write to INDEX POST: refused while the device is not RUNNING, and otherwise taken by its selector (R178). -/
def State.indexPost (s : State) (w : Word32) : State :=
  if s.device ≠ .running then s.setFault .postError
  else
    let sel := (Instr.postSelector w).toNat
    if h : sel < 8 then s.postRequestProducer ⟨sel, h⟩ (postIndex w)
    else if sel = 0x08 then s.postAdminProducer (postIndex w)
    else if h : 0x10 ≤ sel ∧ sel < 0x14 then s.postConsumer ⟨sel - 0x10, by omega⟩ (postIndex w)
    else if sel = 0x18 then s.postAdminConsumer (postIndex w)
    else s.setFault .postError

/-! ### Register writes -/

/-- FAULT written: each bit written as 1 is cleared (R166, R186). -/
def State.faultWrite (s : State) (w : Word32) : State :=
  { s with fault :=
      ⟨s.fault.adminFetch && !w.getLsbD 0, s.fault.postError && !w.getLsbD 1, s.fault.configError && !w.getLsbD 2⟩ }

/-- An admin register is written in IDLE; in any other state the write is ignored and sets CONFIG_ERROR (R150). -/
def State.adminRegisterWrite (s : State) (f : State → State) : State :=
  if s.device = .idle then f s else s.setFault .configError

/-- A write of `size` bytes at an offset of the window (R177): fewer than four bytes, a read-only register and a
reserved offset are ignored. -/
def State.writeRegister (s : State) (offset size : Nat) (w : Word32) : State :=
  if size < 4 then s
  else
    match offset with
    | 0x04 => s.controlWrite w false
    | 0x0C => s.faultWrite w
    | 0x10 => s.adminRegisterWrite (fun s => { s with adminBaseLow := w })
    | 0x14 => s.adminRegisterWrite (fun s => { s with adminBaseHigh := w })
    | 0x18 => s.adminRegisterWrite (fun s => { s with adminSize := w })
    | 0x1C => s.indexPost w
    | _ => s

/-- A register access reaches the part only while its memory space is enabled (R173). -/
def State.access (s : State) (f : State → State) : State := if s.cfg.memorySpace then f s else s

/-- CONTROL_ENABLE (R162, R164). -/
def execControlEnable (w : Word32) (s : State) : Host.Outcome State Fault Refusal :=
  .next (s.access (fun s => s.controlWrite w false))

/-- CONTROL_RESET (R164, R167). -/
def execControlReset (w : Word32) (mid : Bool) (s : State) : Host.Outcome State Fault Refusal :=
  .next (s.access (fun s => s.controlWrite w mid))

/-- FAULT_WRITE (R166). -/
def execFaultWrite (w : Word32) (s : State) : Host.Outcome State Fault Refusal :=
  .next (s.access (fun s => s.faultWrite w))

/-- ADMIN_BASE_LOW_WRITE (R150). -/
def execAdminBaseLowWrite (w : Word32) (s : State) : Host.Outcome State Fault Refusal :=
  .next (s.access (fun s => s.adminRegisterWrite (fun s => { s with adminBaseLow := w })))

/-- ADMIN_BASE_HIGH_WRITE (R150). -/
def execAdminBaseHighWrite (w : Word32) (s : State) : Host.Outcome State Fault Refusal :=
  .next (s.access (fun s => s.adminRegisterWrite (fun s => { s with adminBaseHigh := w })))

/-- ADMIN_SIZE_WRITE (R150). -/
def execAdminSizeWrite (w : Word32) (s : State) : Host.Outcome State Fault Refusal :=
  .next (s.access (fun s => s.adminRegisterWrite (fun s => { s with adminSize := w })))

/-- REQUEST_RING_PRODUCER_POST (R100, R178). -/
def execRequestRingProducerPost (w : Word32) (s : State) : Host.Outcome State Fault Refusal :=
  .next (s.access (fun s => s.indexPost w))

/-- ADMIN_PRODUCER_POST (R151, R178). -/
def execAdminProducerPost (w : Word32) (s : State) : Host.Outcome State Fault Refusal :=
  .next (s.access (fun s => s.indexPost w))

/-- COMPLETION_CONSUMER_POST (R138, R178). -/
def execCompletionConsumerPost (w : Word32) (s : State) : Host.Outcome State Fault Refusal :=
  .next (s.access (fun s => s.indexPost w))

/-- ADMIN_COMPLETION_CONSUMER_POST (R138, R178). -/
def execAdminCompletionConsumerPost (w : Word32) (s : State) : Host.Outcome State Fault Refusal :=
  .next (s.access (fun s => s.indexPost w))

/-- REGISTER_WRITE_IGNORED (R177). -/
def execRegisterWriteIgnored (offset size : Nat) (w : Word32) (s : State) : Host.Outcome State Fault Refusal :=
  .next (s.access (fun s => s.writeRegister offset size w))

/-! ### Register reads -/

/-- The vectors that hold a message. -/
def State.heldVectors (s : State) : List VectorId := (List.finRange 5).filter (fun v => (s.held[v]).isSome)

/-- A read reply is sent behind every write handed over before it; with bus mastering disabled it is sent at once
(R181). -/
def State.sendReply (s : State) (bytes : List Byte) : State :=
  if s.cfg.busMaster then
    State.flushReplies { s with replies := s.replies ++ [(⟨bytes, s.postq.length, s.heldVectors⟩ : Reply)] }
  else { s with link := s.link ++ [.reply bytes] }

/-- The bytes `first` to `first + count - 1` of a register value (R177). -/
def registerBytes (v : Word32) (first count : Nat) : List Byte :=
  (List.range count).map (fun k => v.extractLsb' (8 * (first + k)) 8)

/-- A read of TIME LOW copies the time base's high 16 bits into the snapshot, whichever of its bytes are read (R179). -/
def State.takeSnapshot (s : State) (offset : Nat) : State :=
  if offset = 0x20 then { s with timeSnapshot := s.timeBase.extractLsb' 32 16 } else s

/-- TIME_LOW_READ: a read of `count` bytes of the window from offset `first`, all of one register, with its reply
(R177, R181). A read of TIME LOW takes the snapshot (R179). That the row's command reads the other registers too is the
model's choice, log entry 24. -/
def execTimeLowRead (first count : Nat) (s : State) : Host.Outcome State Fault Refusal :=
  let offset := first - first % 4
  .next (s.access (fun s =>
    (s.takeSnapshot offset).sendReply (registerBytes (s.readRegister offset) (first % 4) count)))

end Sys2Proof.Machine
end

