-- ==== Sys2Proof/Machine/Requests.lean ====
section
/-! DEFINITION. The taking of request-ring records (R31 to R33, R108 to R116): NOP, UNKNOWN_KIND, UPDATE, HOLD,
BULK_READ, BULK_WRITE and CANCEL. Each takes the record at the consumer index, validates it, and starts it or leaves
it at its fence. -/

namespace Sys2Proof.Machine

/-- The oldest slot of ring `r`, when its context may take a record: the device is RUNNING, the ring ACTIVE, the
context EMPTY with no event pending, and the slot has arrived (R108). -/
def State.oldestSlot (s : State) (r : RingId) : Option Slot :=
  if s.device = .running && (s.ring r).state = .active && (s.ctx r).work = .empty && (s.ctx r).event = none then
    match (s.ring r).buffer with
    | some x :: _ => some x
    | _ => none
  else none

/-- The slot behind the oldest one, once it has arrived (R109). -/
def State.secondSlot (s : State) (r : RingId) : Option Slot :=
  match (s.ring r).buffer with
  | _ :: some y :: _ => some y
  | _ => none

/-- `n` slots leave the buffer and the consumer index moves past them (R108, R109). -/
def State.consumeSlots (s : State) (r : RingId) (n : Nat) : State :=
  let x := s.ring r
  s.setRing r { x with consumer := (x.consumer + n) % x.config.size, buffer := x.buffer.drop n }

/-- A validated request goes to its fence or starts (R115). -/
def State.fenceOrStart (s : State) (r : RingId) (q : Request) : State :=
  if q.header.fence && s.armedCount r ≠ 0 then s.setWork r (.waitFence q) else s.startRequest r q

/-- A record of `n` slots is taken and validated: a refusal ends it at once (R31, R33), and a request that passes goes
to its fence or starts. -/
def State.takeRecord (s : State) (r : RingId) (first : Slot) (second : Option Slot) (n : Nat) : State :=
  let s1 := s.consumeSlots r n
  let h := slotHeader first
  match validateRequest (s.ring r).config first second with
  | .error st => s1.finish r h.quiet (h.report st .none none 0 s.now32)
  | .ok body => s1.fenceOrStart r ⟨h, body⟩

/-- The oldest record is taken when it is of a given one-slot kind, `none` standing for an unknown kind (R108). -/
def State.takeKind (s : State) (r : RingId) (k : Option RequestKind) : State :=
  match s.oldestSlot r with
  | some x => if requestKind (slotKind x) = k then s.takeRecord r x none 1 else s
  | none => s

/-- Both slots of a HOLD are taken together once both have arrived (R109). -/
def State.takeHold (s : State) (r : RingId) : State :=
  match s.oldestSlot r, s.secondSlot r with
  | some x, some y => if requestKind (slotKind x) = some .hold then s.takeRecord r x (some y) 2 else s
  | _, _ => s

/-- NOP (R114). -/
def execNop (r : RingId) (s : State) : Host.Outcome State Fault Refusal := .next (s.takeKind r (some .nop))

/-- UNKNOWN_KIND (R31, R33). -/
def execUnknownKind (r : RingId) (s : State) : Host.Outcome State Fault Refusal := .next (s.takeKind r none)

/-- UPDATE (R23). -/
def execUpdate (r : RingId) (s : State) : Host.Outcome State Fault Refusal := .next (s.takeKind r (some .update))

/-- HOLD (R28, R109). -/
def execHold (r : RingId) (s : State) : Host.Outcome State Fault Refusal := .next (s.takeHold r)

/-- BULK_READ (R118, R120). -/
def execBulkRead (r : RingId) (s : State) : Host.Outcome State Fault Refusal := .next (s.takeKind r (some .bulkRead))

/-- BULK_WRITE (R118, R123). -/
def execBulkWrite (r : RingId) (s : State) : Host.Outcome State Fault Refusal :=
  .next (s.takeKind r (some .bulkWrite))

/-- CANCEL (R83, R84). -/
def execCancel (r : RingId) (s : State) : Host.Outcome State Fault Refusal := .next (s.takeKind r (some .cancel))

end Sys2Proof.Machine
end

