-- ==== Sys2Proof/Machine/Dispatch.lean ====
section
/-! DEFINITION. The dispatch: one arm for each command, each a direct call of its meaning. -/

namespace Sys2Proof.Machine

def exec (i : Instr) (s : State) : Host.Outcome State Fault Refusal :=
  match i with
  | .powerOnReset => Sys2Proof.Machine.execPowerOnReset s
  | .linkReset mid => Sys2Proof.Machine.execLinkReset mid s
  | .controlEnable w => Sys2Proof.Machine.execControlEnable w s
  | .controlReset w mid => Sys2Proof.Machine.execControlReset w mid s
  | .resetValuesTaken => Sys2Proof.Machine.execResetValuesTaken s
  | .faultWrite w => Sys2Proof.Machine.execFaultWrite w s
  | .adminBaseLowWrite w => Sys2Proof.Machine.execAdminBaseLowWrite w s
  | .adminBaseHighWrite w => Sys2Proof.Machine.execAdminBaseHighWrite w s
  | .adminSizeWrite w => Sys2Proof.Machine.execAdminSizeWrite w s
  | .requestRingProducerPost w => Sys2Proof.Machine.execRequestRingProducerPost w s
  | .adminProducerPost w => Sys2Proof.Machine.execAdminProducerPost w s
  | .completionConsumerPost w => Sys2Proof.Machine.execCompletionConsumerPost w s
  | .adminCompletionConsumerPost w => Sys2Proof.Machine.execAdminCompletionConsumerPost w s
  | .timeLowRead first count => Sys2Proof.Machine.execTimeLowRead first count s
  | .registerWriteIgnored offset size w => Sys2Proof.Machine.execRegisterWriteIgnored offset size w s
  | .microsecondTick => Sys2Proof.Machine.execMicrosecondTick s
  | .expiry => Sys2Proof.Machine.execExpiry s
  | .waitEntryTimeout r => Sys2Proof.Machine.execWaitEntryTimeout r s
  | .holdoffExpiry c => Sys2Proof.Machine.execHoldoffExpiry c s
  | .readTimeout p => Sys2Proof.Machine.execReadTimeout p s
  | .fetchReadIssue => Sys2Proof.Machine.execFetchReadIssue s
  | .fetchReadReturn p data => Sys2Proof.Machine.execFetchReadReturn p data s
  | .fetchReadFault p => Sys2Proof.Machine.execFetchReadFault p s
  | .adminFetchReturn p data => Sys2Proof.Machine.execAdminFetchReturn p data s
  | .adminFetchReadFault p => Sys2Proof.Machine.execAdminFetchReadFault p s
  | .bulkDataReadIssue => Sys2Proof.Machine.execBulkDataReadIssue s
  | .bulkDataReturn p data => Sys2Proof.Machine.execBulkDataReturn p data s
  | .bulkDataFault p => Sys2Proof.Machine.execBulkDataFault p s
  | .nop r => Sys2Proof.Machine.execNop r s
  | .unknownKind r => Sys2Proof.Machine.execUnknownKind r s
  | .update r => Sys2Proof.Machine.execUpdate r s
  | .updateOperation r => Sys2Proof.Machine.execUpdateOperation r s
  | .hold r => Sys2Proof.Machine.execHold r s
  | .holdArrival r => Sys2Proof.Machine.execHoldArrival r s
  | .holdRetry r => Sys2Proof.Machine.execHoldRetry r s
  | .scanStep => Sys2Proof.Machine.execScanStep s
  | .bulkRead r => Sys2Proof.Machine.execBulkRead r s
  | .bulkReadCell r => Sys2Proof.Machine.execBulkReadCell r s
  | .bulkWrite r => Sys2Proof.Machine.execBulkWrite r s
  | .bulkWriteCell r => Sys2Proof.Machine.execBulkWriteCell r s
  | .cancel r => Sys2Proof.Machine.execCancel r s
  | .fetchEventEntry r => Sys2Proof.Machine.execFetchEventEntry r s
  | .drainEnd r => Sys2Proof.Machine.execDrainEnd r s
  | .completionRecordWrite l => Sys2Proof.Machine.execCompletionRecordWrite l s
  | .heldMessageRelease => Sys2Proof.Machine.execHeldMessageRelease s
  | .postedWriteDepart => Sys2Proof.Machine.execPostedWriteDepart s
  | .adminNop => Sys2Proof.Machine.execAdminNop s
  | .adminUnknownKind => Sys2Proof.Machine.execAdminUnknownKind s
  | .configureRequestRing => Sys2Proof.Machine.execConfigureRequestRing s
  | .configureCompletionRing => Sys2Proof.Machine.execConfigureCompletionRing s
  | .startRing => Sys2Proof.Machine.execStartRing s
  | .stopRing => Sys2Proof.Machine.execStopRing s
  | .resetRing => Sys2Proof.Machine.execResetRing s
  | .resetCompletionRing => Sys2Proof.Machine.execResetCompletionRing s
  | .cancelHolds => Sys2Proof.Machine.execCancelHolds s
  | .clearCells => Sys2Proof.Machine.execClearCells s
  | .clearCellsCell => Sys2Proof.Machine.execClearCellsCell s
  | .readStatus => Sys2Proof.Machine.execReadStatus s
  | .configurationSpaceWrite cfg => Sys2Proof.Machine.execConfigurationSpaceWrite cfg s

end Sys2Proof.Machine
end

