-- ==== Sys2Proof/Safety.lean ====
section
/-! DEFINITION. What the spec calls laws of the part, as predicates on a state (R46, R59, R61, R62, R72, R92, R102,
R137, R145, R174, R176), and the follow-on commands that are due in a state (log entry 1). -/

namespace Sys2Proof.Machine

/-! ### The stores -/

/-- The Cell Store and every staging buffer keep their canonical form, and the store lists only bytes of the 4096
cells (R1). -/
structure State.StoreLaw (s : State) : Prop where
  cells : Memory.wf s.mem = true
  bound : ∀ x ∈ s.mem, x.1 < 65536
  staging : ∀ r, Memory.wf (s.ctx r).staging = true

/-! ### The Hold Table (R46, R56, R59) -/

/-- The entries, of any state but FREE, whose origin is ring `r` (R59). -/
def State.entriesOf (s : State) (r : RingId) : List EntryId :=
  (List.finRange 256).filter (fun e => (s.entry e).any (fun x => x.origin = r))

/-- The memberships of R46, the watch lists of R56, the counts of R59 and the outcome lists of R134. -/
structure State.HoldLaw (s : State) : Prop where
  watchForm : sparseWf [] s.watch = true
  watchNodup : ∀ c, (s.watchList c).Nodup
  watchExact : ∀ c e, e ∈ s.watchList c ↔ s.armedWith (fun x => x.cond.cell = c) e = true
  deadlineNodup : s.deadlines.Nodup
  deadlineExact : ∀ e, e ∈ s.deadlines ↔ s.armedWith (fun x => x.deadline.isSome) e = true
  occupancyExact : ∀ r, s.occ r = (s.entriesOf r).length
  listNodup : ∀ c, (s.cring c).list.Nodup
  listEntry : ∀ c e, Source.entry e ∈ (s.cring c).list ↔
    (s.entry e).any (fun x => !x.isArmed && x.cring = c) = true
  listRing : ∀ c r, Source.ring r ∈ (s.cring c).list ↔ ((s.ctx r).work.code = 5 ∧ (s.ring r).config.cring = c)
  listNoAdmin : ∀ c, Source.admin ∉ (s.cring c).list
  adminList : s.adminArea.list = (match s.adminCtx with | .reporting _ => [.admin] | _ => [])

/-- The occupancy of a ring never exceeds its quota (R59). -/
def State.QuotaLaw (s : State) : Prop := ∀ r, s.occ r ≤ (s.ring r).config.quota

/-! ### The wake queue and the scan (R61 to R63, R72) -/

/-- The wake queue holds no cell twice and only cells with watchers, is empty while the scan is IDLE, and a position
is an entry of the current cell's list (R61 to R63). -/
structure State.WakeLaw (s : State) : Prop where
  queueNodup : s.wakeQueue.Nodup
  queueWatched : ∀ c ∈ s.wakeQueue, s.watchList c ≠ []
  idleEmpty : s.scan = .idle → s.wakeQueue = []
  position : ∀ c e, s.scan = .scanning c e → e ∈ s.watchList c

/-- Entry `e` stands at the scan's position or behind it in the list of the current cell `c` (R72). -/
def State.scanAhead (s : State) (c : CellId) (e : EntryId) : Bool :=
  match s.scan with
  | .scanning d p => d = c && ((s.watchList c).dropWhile (fun x => x ≠ p)).contains e
  | .idle => false

/-- No wake-up is lost: an ARMED entry whose condition holds on the present value of its watched cell has its cell in
the wake queue, or is still ahead of the scan of that cell (R72). -/
def State.NoLostWakeup (s : State) : Prop :=
  ∀ e x, s.entry e = some x → x.isArmed = true → x.cond.holds (readCell s.mem x.cond.cell) = true →
    x.cond.cell ∈ s.wakeQueue ∨ s.scanAhead x.cond.cell e = true

/-! ### Rings (R92, R102, R137, R145) -/

/-- Every installed item lies in the range of Table 5-1 (R92). -/
structure RingConfig.InRange (g : RingConfig) : Prop where
  base : g.base.toNat % 64 = 0
  size : ringSizeValid g.size = true
  weight : 1 ≤ g.weight ∧ g.weight ≤ 8
  window : g.windowBase ≤ 4095 ∧ 1 ≤ g.windowCount ∧ g.windowBase + g.windowCount ≤ 4096
  quota : g.quota ≤ 256

/-- The indices of a configured ring and its prefetch buffer (R102): at most four slots, from the consumer index to
the fetch index, none beyond the producer index, and none held unless the ring is ACTIVE. -/
structure RequestRing.Configured (x : RequestRing) : Prop where
  config : x.config.InRange
  producer : x.producer < x.config.size
  consumer : x.consumer < x.config.size
  fetch : x.fetch = (x.consumer + x.buffer.length) % x.config.size
  four : x.buffer.length ≤ 4
  published : x.buffer.length ≤ ringDistance x.producer x.consumer x.config.size
  inactive : x.state ≠ .active → x.buffer = []

/-- An UNCONFIGURED ring with its reset values but for its generation (R92). -/
def RequestRing.Blank (x : RequestRing) : Prop :=
  x = { RequestRing.reset with generation := x.generation }

/-- Every request ring is blank or configured (R92, R102). -/
def State.RingLaw (s : State) : Prop :=
  ∀ r, (s.ring r).Blank ∨ ((s.ring r).state ≠ .unconfigured ∧ (s.ring r).Configured)

/-- An ACTIVE completion ring: its indices lie in the ring and the count and the timer are those of R145 and R146. -/
structure CompletionRing.Running (x : CompletionRing) : Prop where
  active : x.active = true
  base : x.base.toNat % 32 = 0
  size : ringSizeValid x.size = true
  producer : x.producer < x.size
  consumer : x.consumer < x.size
  threshold : 1 ≤ x.threshold ∧ x.threshold ≤ 64
  count : x.unsignalled < x.threshold
  off : x.intEnable = false → x.unsignalled = 0
  timed : x.timer.isSome = true ↔ (0 < x.unsignalled ∧ 0 < x.holdoff)

/-- An UNCONFIGURED completion ring: reset values but for its outcome list (R131, R133). -/
def CompletionRing.Blank (x : CompletionRing) : Prop := x = { CompletionRing.reset with list := x.list }

/-- Every completion ring is blank or running. -/
def State.CRingLaw (s : State) : Prop := ∀ c, (s.cring c).Blank ∨ (s.cring c).Running

/-- The posted-write queue holds at most 16 writes (R174), and no message stands at its head while message-signalled
interrupts are disabled (R176). -/
def State.QueueLaw (s : State) : Prop :=
  s.postq.length ≤ Config.postedWrites ∧
    (s.cfg.msiEnable = false → ∀ w, s.postq.head? = some w → w.isMessage = false)

/-! ### Runs and resets (R32, R118, R129, R168) -/

/-- The request a context holds (Table 5-4). -/
def Work.request : Work → Option Request
  | .empty => none
  | .waitFence q => some q
  | .waitEntry q _ _ => some q
  | .running q => some q
  | .loading q _ => some q
  | .reporting _ => none

/-- The run of a bulk request lies in the Cell Store (R118). -/
def Request.InStore (q : Request) : Prop :=
  match q.body with
  | .bulkRead f n _ => f + n ≤ 4096
  | .bulkWrite f n _ => f + n ≤ 4096
  | _ => True

/-- Every run of cells at work lies in the Cell Store: those of the bulk requests that contexts hold (R32, R118) and
that of a CLEAR CELLS (R129). -/
structure State.RunLaw (s : State) : Prop where
  rings : ∀ r q, (s.ctx r).work.request = some q → q.InStore
  admin : ∀ kind tag f n k changed, s.adminCtx = .running kind tag f n k changed → f + n ≤ 4096

/-- The values of Table 8-4 that a power-on reset and a function reset share (R168). -/
structure State.ResetBlocks (t : State) : Prop where
  device : t.device = .idle
  arbiter : t.arbPointer = 0 ∧ t.arbCredit = 0
  entries : ∀ e, t.entry e = none
  watchLists : ∀ c, t.watchList c = []
  occupancies : ∀ r, t.occ r = 0
  scan : t.scan = .idle ∧ t.wakeQueue = []
  time : t.timeBase = 0 ∧ t.deadlines = []
  rings : ∀ r, t.ring r = ⟨.unconfigured, ⟨0, 0, 0, 0, 0, 0, 0⟩, 0, 0, 0, 0, []⟩
  lastChosen : t.lastChosen = 7
  contexts : ∀ r, (t.ctx r).work = .empty ∧ (t.ctx r).event = none ∧ (t.ctx r).progress = 0 ∧
    ∀ a, readByte (t.ctx r).staging a = 0
  crings : ∀ c, t.cring c = ⟨false, 0, 0, false, 0, 0, 0, 0, true, 0, none, []⟩
  registers : t.adminBaseLow = 0 ∧ t.adminBaseHigh = 0 ∧ t.adminSize = 0 ∧ t.fault = ⟨false, false, false⟩ ∧
    t.timeSnapshot = 0

/-- The cell that a command may write, by the operand or the progress that names it: the target of the action of an
UPDATE, of a hold or of the entry at the scan position, or the next cell of a BULK WRITE or a CLEAR CELLS (R15). No
other command of the table but POWER_ON_RESET writes a cell. -/
def State.writtenCell (s : State) : Instr → Option Nat
  | .updateOperation r => (s.ctx r).work.request.bind (fun q =>
      match q.body with
      | .update act => some act.target.val
      | _ => none)
  | .holdArrival r => (s.ctx r).work.request.bind (fun q =>
      match q.body with
      | .hold act _ _ => some act.target.val
      | _ => none)
  | .holdRetry r => (s.ctx r).work.request.bind (fun q =>
      match q.body with
      | .hold act _ _ => some act.target.val
      | _ => none)
  | .scanStep =>
    match s.scan with
    | .scanning _ e => (s.entry e).map (fun x => x.act.target.val)
    | .idle => none
  | .bulkWriteCell r => (s.ctx r).work.request.bind (fun q =>
      match q.body with
      | .bulkWrite f _ _ => some (f + (s.ctx r).progress)
      | _ => none)
  | .clearCellsCell =>
    match s.adminCtx with
    | .running _ _ f _ k _ => some (f + k)
    | _ => none
  | _ => none

/-- Between `s` and `t` the Wake Scan has taken the report that cell `c` changed, when it did (R22, R61, R63): nothing
happens when the cell did not change, has no watcher or is queued already; otherwise it joins the tail of the queue, and
an idle scan with an empty queue starts at the cell's first watcher. -/
def State.ChangeReported (s t : State) (c : CellId) (changed : Prop) : Prop :=
  ((¬ changed ∨ s.watchList c = [] ∨ c ∈ s.wakeQueue) → t.scan = s.scan ∧ t.wakeQueue = s.wakeQueue) ∧
  (changed → s.watchList c ≠ [] → c ∉ s.wakeQueue → s.scan ≠ .idle →
    t.scan = s.scan ∧ t.wakeQueue = s.wakeQueue ++ [c]) ∧
  (changed → s.scan = .idle → s.wakeQueue = [] → ∀ e es, s.watchList c = e :: es →
    t.scan = .scanning c e ∧ t.wakeQueue = [])

/-- The Wake Scan left to itself: up to `n` scan steps and nothing else (R71). -/
def State.scanSteps : Nat → State → State
  | 0, s => s
  | n + 1, s =>
    match s.scan with
    | .idle => s
    | .scanning _ _ =>
      match exec .scanStep s with
      | .next t => State.scanSteps n t
      | _ => s

/-! ### Follow-ons that are due (log entry 1)

Many rules place an effect in the event that makes it possible or at the tick, and the table gives that effect a row
of its own. `State.due` names those rows in a state. A sender that takes them before any other command is prompt. -/

/-- The reads that have not been answered in time (R170). -/
def State.dueTimeouts (s : State) : List Instr :=
  ((List.finRange 16).filter (fun p => (s.place p).any (fun x => Config.readTimeoutTicks ≤ x.ticks))).map .readTimeout

/-- The lowest held message, when a place is free for it (R174). -/
def State.dueMessages (s : State) : List Instr := if s.placeFree && s.anyHeld then [.heldMessageRelease] else []

/-- The record write that R136 calls for and that comes first in the order of R174. -/
def State.dueRecords (s : State) : List Instr := (listOrder.filter s.mayWrite).map .completionRecordWrite

/-- The expiry of the head of the deadline list (R80) and of the waiting holds (R43). -/
def State.dueExpiries (s : State) : List Instr :=
  (if s.device = .running && s.deadlines.head?.any (fun e => (s.entry e).any (fun x =>
      x.deadline.any (fun d => expired d s.timeBase))) then [.expiry] else [])
  ++ ((List.finRange 8).filter (fun r => s.device = .running &&
      match (s.ctx r).work with
      | .waitEntry _ (some d) _ => expired d s.timeBase
      | _ => false)).map .waitEntryTimeout

/-- The messages of the holdoff timers that have reached 0 (R146). -/
def State.dueHoldoffs (s : State) : List Instr :=
  ((List.finRange 4).filter (fun c => s.device = .running && (s.cring c).timer = some 0 &&
    0 < (s.cring c).unsignalled)).map .holdoffExpiry

/-- The fetch events whose holder is free (R106) and the rings whose draining has ended (R96), in RUNNING alone (log
entries 35 and 43). -/
def State.dueRings (s : State) : List Instr :=
  ((List.finRange 8).filter (fun r => s.device = .running && (s.ctx r).event.isSome && (s.ctx r).work = .empty)).map
      .fetchEventEntry
  ++ ((List.finRange 8).filter (fun r => s.device = .running && (s.ring r).state = .draining && s.drained r)).map
      .drainEnd

/-- The reads that a free place is handed to at once (R103, R123). -/
def State.dueReads (s : State) : List Instr :=
  if s.readsAllowed && s.freePlace.isSome then
    if (List.finRange 8).any s.bulkWaiting then [.bulkDataReadIssue]
    else if s.adminEligible || (List.finRange 8).any s.ringEligible then [.fetchReadIssue]
    else []
  else []

/-- The follow-ons that are due: what happened at the tick first, then what the events call for. -/
def State.due (s : State) : List Instr :=
  s.dueTimeouts ++ s.dueExpiries ++ s.dueHoldoffs ++ s.dueRings ++ s.dueMessages ++ s.dueRecords ++ s.dueReads

/-- The state after the due follow-ons have been taken one by one, with fuel: how a prompt sender settles it. -/
def State.settle : Nat → State → State
  | 0, s => s
  | n + 1, s =>
    match s.due with
    | [] => s
    | c :: _ =>
      match exec c s with
      | .next s' => State.settle n s'
      | _ => s

end Sys2Proof.Machine
end

