-- ==== Sys2Proof/Certificates/Slice0/Obligations.lean ====
section
/-! DEFINITION. The statements for the provers. Each names in its docstring the rules it formalises, and the log entry
where it rests on a choice of the model. -/

section Statements

open Sys2Proof Sys2Proof.Machine

/-! ### The queue, resets and device states -/

/-- The block's step (model: log entries 1 and 3): the command at the front of the queue is carried out on the state
with the queue's rest, and an empty queue idles. -/
def Obligations.StepTakesTheFrontCommand : Prop :=
  (∀ (s : State) (c : Instr) (rest : List Instr), s.pending = c :: rest →
    step s = exec c { s with pending := rest }) ∧
  ∀ s : State, s.pending = [] → step s = .next s

/-- No run of cells at work leaves the Cell Store: validation refuses every run that would (R32, R118, R129), and no
step makes one. -/
def Obligations.RunsAtWorkStayInTheStore : Prop :=
  ∀ s t : State, s.RunLaw → step s = .next t → t.RunLaw

/-- Every command is carried out to a next state and leaves the queue alone, wherever the runs at work lie in the
store (model: log entries 1 and 26). -/
def Obligations.EveryCommandReachesANextState : Prop :=
  ∀ (c : Instr) (s : State), s.RunLaw → ∃ t, exec c s = .next t ∧ t.pending = s.pending

/-- R168 with Table 8-4: the values after a power-on reset and after the function reset that ends RESETTING; cells are
zero after the first and kept by the second. -/
def Obligations.ResetsGiveTheValuesOfTable84 : Prop :=
  (∀ s : State, ∃ t, exec .powerOnReset s = .next t ∧ t.ResetBlocks ∧ (∀ a, readByte t.mem a = 0) ∧
    t.portOp = none ∧ (∀ p, t.place p = none) ∧ t.postq = [] ∧ ∀ v : VectorId, t.held[v] = none) ∧
  ∀ s : State, s.device = .resetting → s.portOp = none →
    ∃ t, exec .resetValuesTaken s = .next t ∧ t.ResetBlocks ∧ (∀ a, readByte t.mem a = readByte s.mem a) ∧
      (∀ p, t.place p = s.place p) ∧ t.postq = s.postq ∧ t.held = s.held ∧ t.cfg = s.cfg

/-- R164, R167, R175, R176: a write of CONTROL with RESET set enters RESETTING with every read's device mark no longer
current, and is ignored in RESETTING; a link reset enters it too, joins a reset in progress, empties the posted-write
queue, frees the read places and clears the message and bus master enables. An operation of a ring in progress leaves
the pointer and the credit as its grant moved them. The model's choices: the operation in progress is an operand (log
entry 10); held messages and waiting replies are lost (log entry 17); a link reset that joins a reset empties the queue
and frees the places too (log entry 36); the number of messages enabled goes back to 1 (log entry 4); and the memory space
enable (log entry 5) and the message address and data (log entry 41) are kept. -/
def Obligations.ResetEntriesStopTheBlocks : Prop :=
  (∀ (s : State) (w : Word32) (mid : Bool), s.cfg.memorySpace = true → w.getLsbD 1 = true → s.device ≠ .resetting →
    ∃ t, exec (.controlReset w mid) s = .next t ∧ t.device = .resetting ∧ t.portOp = s.operationInProgress mid ∧
      (∀ p, t.place p = (s.place p).map (fun x => { x with deviceMark := false })) ∧
      ((∀ r, s.operationInProgress mid ≠ some (.ring r)) → t.arbPointer = s.arbPointer ∧ t.arbCredit = s.arbCredit) ∧
      (∀ r, s.operationInProgress mid = some (.ring r) →
        ∃ k, s.chooseRing = some (r, k) ∧ t.arbPointer = r ∧ t.arbCredit = k) ∧
      { t with device := s.device, portOp := s.portOp, places := s.places, arbPointer := s.arbPointer,
               arbCredit := s.arbCredit } = s) ∧
  (∀ (s : State) (w : Word32) (mid : Bool), s.cfg.memorySpace = true → w.getLsbD 1 = true → s.device = .resetting →
    exec (.controlReset w mid) s = .next s) ∧
  ∀ (s : State) (mid : Bool),
    ∃ t, exec (.linkReset mid) s = .next t ∧ t.device = .resetting ∧
      t.portOp = (if s.device = .resetting then s.portOp else s.operationInProgress mid) ∧
      t.postq = [] ∧ (∀ v : VectorId, t.held[v] = none) ∧ t.replies = [] ∧ (∀ p, t.place p = none) ∧
      t.cfg = { s.cfg with busMaster := false, msiEnable := false, msiLog2 := 0 } ∧
      ((s.device = .resetting ∨ ∀ r, s.operationInProgress mid ≠ some (.ring r)) →
        t.arbPointer = s.arbPointer ∧ t.arbCredit = s.arbCredit) ∧
      (∀ r, s.operationInProgress mid = some (.ring r) →
        ∃ k, s.chooseRing = some (r, k) ∧ t.arbPointer = r ∧ t.arbCredit = k) ∧
      { t with device := s.device, portOp := s.portOp, postq := s.postq, held := s.held, replies := s.replies,
               places := s.places, cfg := s.cfg, arbPointer := s.arbPointer, arbCredit := s.arbCredit } = s

/-- R150, R162, R164: the admin registers are written in IDLE and refused with CONFIG_ERROR outside it; ENABLE in IDLE
enters RUNNING with the admin area of the three registers when ADMIN SIZE is 16, 32, 64, 128 or 256, sets CONFIG_ERROR
when it is not, and is ignored in every other state. -/
def Obligations.AdminRegistersAndEnable : Prop :=
  ∀ (s : State) (w : Word32), s.cfg.memorySpace = true →
    (s.device = .idle →
      exec (.adminBaseLowWrite w) s = .next { s with adminBaseLow := w } ∧
      exec (.adminBaseHighWrite w) s = .next { s with adminBaseHigh := w } ∧
      exec (.adminSizeWrite w) s = .next { s with adminSize := w }) ∧
    (s.device ≠ .idle →
      exec (.adminBaseLowWrite w) s = .next (s.setFault .configError) ∧
      exec (.adminBaseHighWrite w) s = .next (s.setFault .configError) ∧
      exec (.adminSizeWrite w) s = .next (s.setFault .configError)) ∧
    (w.getLsbD 0 = true → w.getLsbD 1 = false →
      (s.device = .idle → s.adminSize.toNat ∈ [16, 32, 64, 128, 256] →
        exec (.controlEnable w) s = .next { s with
          device := .running
          admin := ⟨((s.adminBaseHigh ++ s.adminBaseLow) >>> 6) <<< 6, s.adminSize.toNat, 0, 0, 0, []⟩
          adminCtx := .empty
          adminArea := ⟨0, 0, true, []⟩ }) ∧
      (s.device = .idle → s.adminSize.toNat ∉ [16, 32, 64, 128, 256] →
        exec (.controlEnable w) s = .next (s.setFault .configError)) ∧
      (s.device ≠ .idle → exec (.controlEnable w) s = .next s))

/-- R166, R174, R176: the bits of FAULT and the handing over of a message. A bit that goes from clear to set hands over a
message on vector 0 outside RESETTING; a bit already set sends none; FAULT_WRITE clears exactly the bits written as 1. A
message handed over takes a free place behind the queue, and is dropped at once where it is at the head while
message-signalled interrupts are disabled (log entry 38); while the queue is full it is held at its vector, once; and the
messages held before it take the free places first. That last clause, for a message handed over while a place is free and
others are still held, is the model's reading of R174 (DEDUCED, log entry 32): such a moment exists only in the model,
where the release is a command of its own. (What a message carries is
the address, and the data with the message number added: log entries 9 and 40.) -/
def Obligations.FaultBitsAndTheirMessage : Prop :=
  (∀ (s : State) (b : FaultBit), s.fault.get b = true → s.setFault b = s) ∧
  (∀ (s : State) (b : FaultBit), s.fault.get b = false → ∃ f : FaultBits,
    f.get b = true ∧ (∀ b', b' ≠ b → f.get b' = s.fault.get b') ∧
    s.setFault b = if s.device = .resetting then { s with fault := f } else State.sendMessage { s with fault := f } 0) ∧
  (∀ (s : State) (v : VectorId),
    let m : Message := ⟨s.cfg.msiAddress, s.cfg.msiData + BitVec.ofNat 16 (v.val % 2 ^ s.cfg.msiLog2.val)⟩
    (s.postq.length < 16 → (∀ i : VectorId, s.held[i] = none) →
      (s.postq = [] → s.cfg.msiEnable = false → s.sendMessage v = s) ∧
      ((s.postq ≠ [] ∨ s.cfg.msiEnable = true) → s.sendMessage v = { s with postq := s.postq ++ [.message m] })) ∧
    (s.postq.length < 16 → (∃ i : VectorId, s.held[i] ≠ none) →
      ∃ t, exec .heldMessageRelease s = .next t ∧ s.sendMessage v = t.sendMessage v) ∧
    (16 ≤ s.postq.length →
      (s.sendMessage v).held[v] = some (s.held[v].getD m) ∧
      (∀ i : VectorId, i ≠ v → (s.sendMessage v).held[i] = s.held[i]) ∧
      { s.sendMessage v with held := s.held } = s)) ∧
  ∀ (s : State) (w : Word32), s.cfg.memorySpace = true →
    ∃ t, exec (.faultWrite w) s = .next t ∧
      t.fault.adminFetch = (s.fault.adminFetch && !w.getLsbD 0) ∧
      t.fault.postError = (s.fault.postError && !w.getLsbD 1) ∧
      t.fault.configError = (s.fault.configError && !w.getLsbD 2) ∧
      { t with fault := s.fault } = s

/-! ### The register window -/

/-- R100, R151, R178: a producer-index post in RUNNING sets the producer index of the named request ring or of the
admin ring when the index lies below the size and withdraws no fetched slot, and otherwise sets POST_ERROR and changes
no index. -/
def Obligations.ProducerPosts : Prop :=
  ∀ (s : State) (w : Word32), s.cfg.memorySpace = true → s.device = .running →
    let p := (w.extractLsb' 0 12).toNat
    (∀ r : RingId, (w.extractLsb' 16 8).toNat = r.val →
      let x := s.ring r
      (x.state ≠ .unconfigured → p < x.config.size →
        (x.fetch + x.config.size - x.consumer) % x.config.size ≤ (p + x.config.size - x.consumer) % x.config.size →
        exec (.requestRingProducerPost w) s = .next (s.setRing r { x with producer := p })) ∧
      ((x.state = .unconfigured ∨ x.config.size ≤ p ∨
        (p + x.config.size - x.consumer) % x.config.size < (x.fetch + x.config.size - x.consumer) % x.config.size) →
        exec (.requestRingProducerPost w) s = .next (s.setFault .postError))) ∧
    ((w.extractLsb' 16 8).toNat = 0x08 →
      let x := s.admin
      (p < x.size → (x.fetch + x.size - x.consumer) % x.size ≤ (p + x.size - x.consumer) % x.size →
        exec (.adminProducerPost w) s = .next { s with admin := { x with producer := p } }) ∧
      ((x.size ≤ p ∨ (p + x.size - x.consumer) % x.size < (x.fetch + x.size - x.consumer) % x.size) →
        exec (.adminProducerPost w) s = .next (s.setFault .postError)))

/-- R138, R178: a consumer-index post in RUNNING sets the consumer index of the named ACTIVE completion ring or of the
admin completion area when the index lies in the stretch of written records, and otherwise sets POST_ERROR. -/
def Obligations.ConsumerPosts : Prop :=
  ∀ (s : State) (w : Word32), s.cfg.memorySpace = true → s.device = .running →
    let k := (w.extractLsb' 0 12).toNat
    (∀ c : CRingId, (w.extractLsb' 16 8).toNat = 0x10 + c.val →
      let x := s.cring c
      (x.active = true → k < x.size → (k + x.size - x.consumer) % x.size ≤ (x.producer + x.size - x.consumer) % x.size →
        exec (.completionConsumerPost w) s = .next (s.setCRing c { x with consumer := k })) ∧
      ((x.active = false ∨ x.size ≤ k ∨
        (x.producer + x.size - x.consumer) % x.size < (k + x.size - x.consumer) % x.size) →
        exec (.completionConsumerPost w) s = .next (s.setFault .postError))) ∧
    ((w.extractLsb' 16 8).toNat = 0x18 →
      let x := s.adminArea
      let n := s.admin.size
      (k < n → (k + n - x.consumer) % n ≤ (x.producer + n - x.consumer) % n →
        exec (.adminCompletionConsumerPost w) s = .next { s with adminArea := { x with consumer := k } }) ∧
      ((n ≤ k ∨ (x.producer + n - x.consumer) % n < (k + n - x.consumer) % n) →
        exec (.adminCompletionConsumerPost w) s = .next (s.setFault .postError)))

/-- R173, R177, R178: what a register access does not do. With memory space disabled no register command has an
effect (log entry 6); a post outside RUNNING or with an unlisted selector sets POST_ERROR; a write that the window
ignores changes nothing at all. -/
def Obligations.RefusedAccesses : Prop :=
  (∀ (s : State) (w : Word32) (mid : Bool) (first count offset size : Nat), s.cfg.memorySpace = false →
    ∀ c ∈ [Instr.controlEnable w, .controlReset w mid, .faultWrite w, .adminBaseLowWrite w, .adminBaseHighWrite w,
        .adminSizeWrite w, .requestRingProducerPost w, .adminProducerPost w, .completionConsumerPost w,
        .adminCompletionConsumerPost w, .timeLowRead first count, .registerWriteIgnored offset size w],
      exec c s = .next s) ∧
  (∀ (s : State) (w : Word32), s.cfg.memorySpace = true →
    (s.device ≠ .running ∨
      (9 ≤ (w.extractLsb' 16 8).toNat ∧ (w.extractLsb' 16 8).toNat ∉ [0x10, 0x11, 0x12, 0x13, 0x18])) →
    ∀ c ∈ [Instr.requestRingProducerPost w, .adminProducerPost w, .completionConsumerPost w,
        .adminCompletionConsumerPost w], exec c s = .next (s.setFault .postError)) ∧
  ∀ (s : State) (offset size : Nat) (w : Word32), (Instr.registerWriteIgnored offset size w).wellFormed = true →
    exec (.registerWriteIgnored offset size w) s = .next s

/-- R177, R179, R181: a register read returns the bytes asked for of its register's value, at once when nothing handed
over is ahead of the reply or bus mastering is disabled, and behind the posted writes and the held messages otherwise. A
read of TIME LOW, whole or in part, returns them of the time base's low 32 bits and copies its high 16 bits into the
snapshot, which no other read changes. (One command reads every register of the window: log entry 24.) -/
def Obligations.TimeLowReadTakesTheSnapshot : Prop :=
  ∀ (s : State) (offset first count : Nat), s.cfg.memorySpace = true → offset % 4 = 0 → first < 4 → first + count ≤ 4 →
    ∃ t bytes, exec (.timeLowRead (offset + first) count) s = .next t ∧ bytes.length = count ∧
      (∀ k, k < count → ∀ i, i < 8 →
        (bytes.getD k 0).getLsbD i = (s.readRegister offset).getLsbD (8 * (first + k) + i)) ∧
      (offset = 0x20 → t.timeSnapshot.toNat = s.timeBase.toNat / 2 ^ 32 ∧
        ∀ k, k < count → ∀ i, i < 8 → (bytes.getD k 0).getLsbD i = s.timeBase.getLsbD (8 * (first + k) + i)) ∧
      (offset ≠ 0x20 → t.timeSnapshot = s.timeSnapshot) ∧
      ((s.cfg.busMaster = false ∨ (s.postq = [] ∧ (∀ v : VectorId, s.held[v] = none) ∧ s.replies = [])) →
        t.link = s.link ++ [.reply bytes] ∧ t.replies = s.replies) ∧
      (s.cfg.busMaster = true → (s.postq ≠ [] ∨ ∃ v : VectorId, s.held[v] ≠ none) →
        (∀ y ∈ s.replies, y.ready = false) →
        t.link = s.link ∧ t.replies = s.replies ++ [⟨bytes, s.postq.length, s.heldVectors⟩]) ∧
      { t with timeSnapshot := s.timeSnapshot, link := s.link, replies := s.replies } = s

/-- R165, R177, R179, R186 with Table 11-13: what a read of each register returns, every bit that the table does not
name reading 0. -/
def Obligations.RegisterReads : Prop :=
  ∀ s : State,
    s.readRegister 0x00 = 0x08C10416 ∧ s.readRegister 0x04 = 0 ∧ s.readRegister 0x1C = 0 ∧
    (∀ i, (s.readRegister 0x08).getLsbD i =
      if i < 2 then s.device.code.getLsbD i
      else if 16 ≤ i ∧ i ≤ 24 then
        s.totalOccupancy.testBit (i - 16)
      else false) ∧
    (∀ i, (s.readRegister 0x0C).getLsbD i =
      if i = 0 then s.fault.adminFetch else if i = 1 then s.fault.postError
      else if i = 2 then s.fault.configError else false) ∧
    s.readRegister 0x10 = s.adminBaseLow ∧ s.readRegister 0x14 = s.adminBaseHigh ∧
    s.readRegister 0x18 = s.adminSize ∧
    (s.readRegister 0x20).toNat = s.timeBase.toNat % 2 ^ 32 ∧
    (s.readRegister 0x24).toNat = s.timeSnapshot.toNat ∧
    ∀ offset, 0x28 ≤ offset → s.readRegister offset = 0

/-! ### Time -/

/-- R75, R145, R149, R170: a tick advances the time base modulo 2^48 in every device state and raises the count of
every outstanding read; the running holdoff timers fall in RUNNING alone (log entry 15). -/
def Obligations.MicrosecondTickAdvancesTheClocks : Prop :=
  ∀ s : State, ∃ t, exec .microsecondTick s = .next t ∧ t.timeBase.toNat = (s.timeBase.toNat + 1) % 2 ^ 48 ∧
    (∀ p, t.place p = (s.place p).map (fun x => { x with ticks := x.ticks + 1 })) ∧
    (s.device = .running → ∀ c, t.cring c = { s.cring c with timer := (s.cring c).timer.map (fun n => n - 1) }) ∧
    (s.device ≠ .running → t.crings = s.crings) ∧
    { t with timeBase := s.timeBase, places := s.places, crings := s.crings } = s

/-- R49, R53, R58, R66: a claim on an ARMED entry other than a firing, and on an entry that is not ARMED. The entry
leaves its watch list and the deadline list, becomes ENDING with the status, clear flags, no value and the present
time, and joins the list of its completion ring; a cell left without watchers leaves the wake queue; a scan position
at the entry moves to the entry behind it, or the scan takes the head of the queue. -/
def Obligations.ClaimsEndArmedEntriesAlone : Prop :=
  (∀ (s : State) (st : Status) (e : EntryId), (∀ x, s.entry e = some x → x.isArmed = false) → s.claimEnd st e = s) ∧
  ∀ (s : State) (st : Status) (e : EntryId) (x : HoldEntry), sparseWf [] s.watch = true → s.entry e = some x →
    x.isArmed = true →
    let c := x.cond.cell
    let t := s.claimEnd st e
    let queue := if (s.watchList c).erase e = [] then s.wakeQueue.erase c else s.wakeQueue
    t.entry e = some { x with state := .ending ⟨st, ⟨false, false, false⟩, none, s.timeBase.setWidth 32⟩ } ∧
    (∀ i, i ≠ e → t.entry i = s.entry i) ∧
    t.watchList c = (s.watchList c).erase e ∧ (∀ d, d ≠ c → t.watchList d = s.watchList d) ∧
    t.deadlines = s.deadlines.erase e ∧
    t.cring x.cring = { s.cring x.cring with list := (s.cring x.cring).list ++ [.entry e] } ∧
    (∀ i, i ≠ x.cring → t.cring i = s.cring i) ∧
    (s.scan ≠ .scanning c e → t.scan = s.scan ∧ t.wakeQueue = queue) ∧
    (s.scan = .scanning c e → ∀ pre post, s.watchList c = pre ++ e :: post → e ∉ pre →
      (∀ f rest, post = f :: rest → t.scan = .scanning c f ∧ t.wakeQueue = queue) ∧
      (post = [] → queue = [] → t.scan = .idle ∧ t.wakeQueue = []) ∧
      (post = [] → ∀ d f rest, queue = d :: rest → (t.watchList d).head? = some f →
        t.scan = .scanning d f ∧ t.wakeQueue = rest)) ∧
    { t with table := s.table, watch := s.watch, deadlines := s.deadlines, crings := s.crings, scan := s.scan,
             wakeQueue := s.wakeQueue } = s

/-- R43, R76, R80, R146, R174, R176: the claims that time brings, in RUNNING. EXPIRY ends the head of the deadline list TIMEOUT
once (time base - deadline) mod 2^48 is below 2^47 and opens a fence it frees, and does nothing before; a waiting hold
whose deadline is reached ends TIMEOUT in its context, and not before; a holdoff timer at 0 with records unsignalled
clears the count, stops and hands over its ring's message, which joins the queue or, while the queue is full, is held at
its vector. HOLDOFF_EXPIRY does nothing while the timer is above 0 or stopped or the count is 0. (The message's number is
that of the hand-over, added to the data in 16 bits: log entries 9 and 40. Handing over in every state of the queue: FaultBitsAndTheirMessage.) -/
def Obligations.TimeEndsWhatIsDue : Prop :=
  (∀ (s : State) (e : EntryId) (rest : List EntryId) (x : HoldEntry) (d : Time), s.device = .running →
    s.deadlines = e :: rest → s.entry e = some x → x.deadline = some d →
    ((s.timeBase.toNat + 2 ^ 48 - d.toNat) % 2 ^ 48 < 2 ^ 47 →
      exec .expiry s = .next ((s.claimEnd .timeout e).releaseFence x.origin)) ∧
    (2 ^ 47 ≤ (s.timeBase.toNat + 2 ^ 48 - d.toNat) % 2 ^ 48 → exec .expiry s = .next s)) ∧
  (∀ (s : State) (r : RingId) (q : Request) (d : Time) (ready : Bool), s.device = .running →
    (s.ctx r).work = .waitEntry q (some d) ready →
    ((s.timeBase.toNat + 2 ^ 48 - d.toNat) % 2 ^ 48 < 2 ^ 47 →
      exec (.waitEntryTimeout r) s = .next
        ((s.setWork r (.reporting ⟨.timeout, q.header.kind, q.header.tag, ⟨false, false, false⟩, none, 0,
          s.timeBase.setWidth 32⟩)).joinList (s.ring r).config.cring (.ring r))) ∧
    (2 ^ 47 ≤ (s.timeBase.toNat + 2 ^ 48 - d.toNat) % 2 ^ 48 → exec (.waitEntryTimeout r) s = .next s)) ∧
  (∀ (s : State) (c : CRingId), s.device = .running → (s.cring c).timer = some 0 → 0 < (s.cring c).unsignalled →
    let v : VectorId := ⟨c.val + 1, by omega⟩
    let m : Message := ⟨s.cfg.msiAddress, s.cfg.msiData + BitVec.ofNat 16 ((c.val + 1) % 2 ^ s.cfg.msiLog2.val)⟩
    let u := s.setCRing c { s.cring c with unsignalled := 0, timer := none }
    exec (.holdoffExpiry c) s = .next (u.sendMessage v) ∧
    (s.postq.length < 16 → (∀ i : VectorId, s.held[i] = none) → (s.postq ≠ [] ∨ s.cfg.msiEnable = true) →
      u.sendMessage v = { u with postq := s.postq ++ [.message m] }) ∧
    (16 ≤ s.postq.length → s.held[v] = none → (u.sendMessage v).held[v] = some m ∧
      { u.sendMessage v with held := s.held } = u)) ∧
  ∀ (s : State) (c : CRingId), (s.device ≠ .running ∨ (s.cring c).timer = none ∨ (s.cring c).unsignalled = 0 ∨
      ∃ n, (s.cring c).timer = some (n + 1)) →
    exec (.holdoffExpiry c) s = .next s

/-! ### Reads from host memory -/

/-- R103, R123, R152, R170, R173: in RUNNING, with bus mastering enabled and a place free, the place goes to the waiting
bulk data read of the lowest-numbered ring; with none waiting, to one fetch read of the admin ring when it is eligible,
and otherwise of the first eligible request ring after the one last chosen. The read covers the published unfetched
slots that fit in the buffer, up to the last slot. With no place free, outside RUNNING or with bus mastering disabled no
read is issued. Which of the free places is taken is the model's choice, the lowest-numbered (log entry 7), and so is the
address of a slot past the end of the 64-bit host space, which wraps (log entry 37). -/
def Obligations.ReadsAreIssuedInTheirOrder : Prop :=
  (∀ (s : State) (p : PlaceId), s.device = .running → s.cfg.busMaster = true → s.place p = none →
    (∀ i, i < p → s.place i ≠ none) →
    (∀ (r : RingId) (q : Request) (f n : Nat) (h : HostAddr), (s.ctx r).work = .loading q false →
      q.body = .bulkWrite f n h → (∀ i, i < r → ∀ q', (s.ctx i).work ≠ .loading q' false) →
      exec .bulkDataReadIssue s = .next
        ((s.setPlace p (some ⟨.bulk r, h, 16 * n, 0, (s.ring r).generation, true, 0⟩)).setWork r (.loading q true)) ∧
      exec .fetchReadIssue s = .next s) ∧
    ((∀ i q', (s.ctx i).work ≠ .loading q' false) →
      exec .bulkDataReadIssue s = .next s ∧
      (let x := s.admin
       let n := min (min ((x.producer + x.size - x.fetch) % x.size) (2 - x.buffer.length)) (x.size - x.fetch)
       s.adminEligible = true →
        exec .fetchReadIssue s = .next { s.setPlace p (some
            ⟨.adminFetch, x.base + BitVec.ofNat 64 (64 * x.fetch), 64 * n, x.fetch, 0, true, 0⟩) with
          admin := { x with fetch := (x.fetch + n) % x.size, buffer := x.buffer ++ List.replicate n none } }) ∧
      (s.adminEligible = false → ∀ k : Nat, k < 8 →
        let r : RingId := s.lastChosen + 1 + Fin.ofNat 8 k
        let x := s.ring r
        let n := min (min ((x.producer + x.config.size - x.fetch) % x.config.size) (4 - x.buffer.length))
          (x.config.size - x.fetch)
        (∀ j, j < k → s.ringEligible (s.lastChosen + 1 + Fin.ofNat 8 j) = false) → s.ringEligible r = true →
        exec .fetchReadIssue s = .next
          { (s.setPlace p (some ⟨.fetch r, x.config.base + BitVec.ofNat 64 (64 * x.fetch), 64 * n, x.fetch,
              x.generation, true, 0⟩)).setRing r
              { x with fetch := (x.fetch + n) % x.config.size, buffer := x.buffer ++ List.replicate n none } with
            lastChosen := r }))) ∧
  (∀ s : State, (s.adminEligible = true ↔
      0 < (s.admin.producer + s.admin.size - s.admin.fetch) % s.admin.size ∧ s.admin.buffer.length < 2) ∧
    ∀ r, (s.ringEligible r = true ↔ (s.ring r).state = .active ∧
      0 < ((s.ring r).producer + (s.ring r).config.size - (s.ring r).fetch) % (s.ring r).config.size ∧
      (s.ring r).buffer.length < 4)) ∧
  ∀ s : State, (s.device ≠ .running ∨ s.cfg.busMaster = false ∨ ∀ p, s.place p ≠ none) →
    exec .bulkDataReadIssue s = .next s ∧ exec .fetchReadIssue s = .next s

/-- R104, R124, R152, R170, R172: the data of a current read in RUNNING that comes before its count reaches 50,000
ticks releases its place and reaches its owner. A fetch's
slots become arrived at their places of the buffer while the ring is ACTIVE, and are dropped otherwise; an admin
fetch's slots become arrived; a bulk read's bytes enter the staging buffer, k becomes 0 and the context enters
RUNNING. -/
def Obligations.ReturnedDataReachesItsOwner : Prop :=
  ∀ (s : State) (p : PlaceId) (x : Read), s.device = .running → s.place p = some x → x.deviceMark = true →
    x.ticks < 50000 →
    (∀ (r : RingId) (data : List Slot), x.owner = .fetch r → x.ownerMark = (s.ring r).generation →
      64 * data.length = x.length →
      ((s.ring r).state ≠ .active → exec (.fetchReadReturn p data) s = .next (s.setPlace p none)) ∧
      ((s.ring r).state = .active →
        let y := s.ring r
        let first := (x.firstSlot + y.config.size - y.consumer) % y.config.size
        ∃ b : List (Option Slot),
          exec (.fetchReadReturn p data) s = .next ((s.setPlace p none).setRing r { y with buffer := b }) ∧
          b.length = y.buffer.length ∧
          (∀ k v, data[k]? = some v → first + k < b.length → b[first + k]? = some (some v)) ∧
          ∀ i, (i < first ∨ first + data.length ≤ i) → b[i]? = y.buffer[i]?)) ∧
    (∀ data : List Slot, x.owner = .adminFetch → 64 * data.length = x.length →
      let y := s.admin
      let first := (x.firstSlot + y.size - y.consumer) % y.size
      ∃ b : List (Option Slot),
        exec (.adminFetchReturn p data) s = .next { s.setPlace p none with admin := { y with buffer := b } } ∧
        b.length = y.buffer.length ∧
        (∀ k v, data[k]? = some v → first + k < b.length → b[first + k]? = some (some v)) ∧
        ∀ i, (i < first ∨ first + data.length ≤ i) → b[i]? = y.buffer[i]?) ∧
    ∀ (r : RingId) (data : List CellValue), x.owner = .bulk r → x.ownerMark = (s.ring r).generation →
      16 * data.length = x.length →
      ((∀ q, (s.ctx r).work ≠ .loading q true) → exec (.bulkDataReturn p data) s = .next (s.setPlace p none)) ∧
      ∀ q, (s.ctx r).work = .loading q true → Memory.wf (s.ctx r).staging = true →
        ∃ b : List Host.Cell,
          exec (.bulkDataReturn p data) s = .next ((s.setPlace p none).setCtx r
            { s.ctx r with work := .running q, staging := b, progress := 0 }) ∧
          ∀ a, readByte b a =
            if a < 16 * data.length then cellByte (data.getD (a / 16) 0) (a % 16) else readByte (s.ctx r).staging a

/-- R44, R105, R126, R163, R170, R172: a fault on a current read in RUNNING, returned by the host, by the absence of an
answer for 50,000 ticks, or by data of the wrong length before that, releases its place and reaches its owner. A ring
ACTIVE or DRAINING becomes FAULTED with its buffer emptied, its fetch index back at the consumer index and a fetch event
pending, and any other ring is untouched; the BULK WRITE of a bulk read ends READ_FAULT; an admin fetch fault halts the
device, makes waiting contexts ready (log entry 13) and sets FAULT.ADMIN_FETCH with its message, as
FaultBitsAndTheirMessage states. Before 50,000 ticks READ_TIMEOUT does nothing; data that arrives at 50,000 ticks or later
is dropped with no effect, and the place stays until READ_TIMEOUT (log entry 39). -/
def Obligations.ReadFaultsReachTheirOwner : Prop :=
  ∀ (s : State) (p : PlaceId) (x : Read), s.place p = some x →
    (x.ticks < 50000 → exec (.readTimeout p) s = .next s) ∧
    (50000 ≤ x.ticks → (∀ data, exec (.fetchReadReturn p data) s = .next s) ∧
      (∀ data, exec (.adminFetchReturn p data) s = .next s) ∧ ∀ data, exec (.bulkDataReturn p data) s = .next s) ∧
    (s.device = .running → x.deviceMark = true →
      (∀ r : RingId, x.owner = .fetch r → x.ownerMark = (s.ring r).generation → ∀ c : Instr,
        (c = .fetchReadFault p ∨ (c = .readTimeout p ∧ 50000 ≤ x.ticks) ∨
          (x.ticks < 50000 ∧ ∃ data, c = .fetchReadReturn p data ∧ 64 * data.length ≠ x.length)) →
        let y := s.ring r
        ((y.state = .active ∨ y.state = .draining) →
          exec c s = .next (((s.setPlace p none).setRing r
              { y with state := .faulted, fetch := y.consumer, buffer := [] }).setCtx r
            { s.ctx r with event := some (s.timeBase.setWidth 32) })) ∧
        (y.state ≠ .active → y.state ≠ .draining → exec c s = .next (s.setPlace p none))) ∧
      (x.owner = .adminFetch → ∀ c : Instr,
        (c = .adminFetchReadFault p ∨ (c = .readTimeout p ∧ 50000 ≤ x.ticks) ∨
          (x.ticks < 50000 ∧ ∃ data, c = .adminFetchReturn p data ∧ 64 * data.length ≠ x.length)) →
        ∃ t : State, exec c s = .next (t.setFault .adminFetch) ∧ t.device = .halted ∧
          (∀ i, t.place i = if i = p then none else s.place i) ∧
          (∀ r q d b, (s.ctx r).work = .waitEntry q d b → t.ctx r = { s.ctx r with work := .waitEntry q d true }) ∧
          (∀ r, (∀ q d b, (s.ctx r).work ≠ .waitEntry q d b) → t.ctx r = s.ctx r) ∧
          { t with device := s.device, places := s.places, contexts := s.contexts } = s) ∧
      ∀ r : RingId, x.owner = .bulk r → x.ownerMark = (s.ring r).generation → ∀ c : Instr,
        (c = .bulkDataFault p ∨ (c = .readTimeout p ∧ 50000 ≤ x.ticks) ∨
          (x.ticks < 50000 ∧ ∃ data, c = .bulkDataReturn p data ∧ 16 * data.length ≠ x.length)) →
        ((∀ q, (s.ctx r).work ≠ .loading q true) → exec c s = .next (s.setPlace p none)) ∧
        ∀ q, (s.ctx r).work = .loading q true →
          exec c s = .next (((s.setPlace p none).setWork r (.reporting ⟨.readFault, q.header.kind, q.header.tag,
            ⟨false, false, false⟩, none, 0, s.timeBase.setWidth 32⟩)).joinList (s.ring r).config.cring (.ring r)))

/-- R171, R172: a return that is stale, by its device mark or by the generation of its ring, or that comes while the
device is not RUNNING, releases its place and changes nothing else, whether it brings data, a fault or no answer. (Data at
50,000 ticks or later: ReadFaultsReachTheirOwner.) -/
def Obligations.StaleReturnsOnlyReleaseTheirPlace : Prop :=
  ∀ (s : State) (p : PlaceId) (x : Read), s.place p = some x →
    (s.device ≠ .running ∨ x.deviceMark = false ∨
      ∃ r : RingId, (x.owner = .fetch r ∨ x.owner = .bulk r) ∧ x.ownerMark ≠ (s.ring r).generation) →
    (50000 ≤ x.ticks → exec (.readTimeout p) s = .next (s.setPlace p none)) ∧
    (∀ r : RingId, x.owner = .fetch r → exec (.fetchReadFault p) s = .next (s.setPlace p none) ∧
      ∀ data, x.ticks < 50000 → exec (.fetchReadReturn p data) s = .next (s.setPlace p none)) ∧
    (x.owner = .adminFetch → exec (.adminFetchReadFault p) s = .next (s.setPlace p none) ∧
      ∀ data, x.ticks < 50000 → exec (.adminFetchReturn p data) s = .next (s.setPlace p none)) ∧
    ∀ r : RingId, x.owner = .bulk r → exec (.bulkDataFault p) s = .next (s.setPlace p none) ∧
      ∀ data, x.ticks < 50000 → exec (.bulkDataReturn p data) s = .next (s.setPlace p none)

/-- R96, R106: in RUNNING a pending fetch event enters the holder of an EMPTY context and joins its ring's outcome list
as READ_FAULT with tag 0 and the end time of its fault; a DRAINING ring whose context is EMPTY and which has no fetch
read outstanding becomes STOPPED, and one that still has either stays DRAINING (a stale fetch read too: log entry 11). -/
def Obligations.FetchEventsEnterAndDrainingEnds : Prop :=
  (∀ (s : State) (r : RingId) (e : BitVec 32), s.device = .running → (s.ctx r).event = some e →
    ((s.ctx r).work = .empty →
      exec (.fetchEventEntry r) s = .next ((s.setCtx r { s.ctx r with
          event := none, work := .reporting ⟨.readFault, 0, 0, ⟨false, false, false⟩, none, 0, e⟩ }).joinList
        (s.ring r).config.cring (.ring r))) ∧
    ((s.ctx r).work ≠ .empty → exec (.fetchEventEntry r) s = .next s)) ∧
  ∀ (s : State) (r : RingId), s.device = .running → (s.ring r).state = .draining →
    ((s.ctx r).work = .empty → (∀ p x, s.place p = some x → x.owner ≠ .fetch r) →
      exec (.drainEnd r) s = .next (s.setRing r { s.ring r with state := .stopped })) ∧
    (((s.ctx r).work ≠ .empty ∨ ∃ p x, s.place p = some x ∧ x.owner = .fetch r) → exec (.drainEnd r) s = .next s)

/-! ### The requests of the request rings -/

/-- R31, R32, R118, R183 with Tables 1-2, 2-3, 11-1, 11-2, 11-6, 11-7 and 11-8: what validation answers for the bytes
of a record, `y` being the second slot of a HOLD: BAD_REQUEST for an unknown kind, then BAD_REQUEST for a field its kind
does not allow, then DENIED for a cell outside the window, and otherwise the request with the fields its kind uses. -/
def Obligations.ValidationFollowsTheTables : Prop :=
  (∀ k : Byte,
    decodeOp k = ([some .read, some .store, some .add, some .set, some .clear, some .flip, some .merge, some .swap,
      some .cswap, some .max, some .min, none, none, none, none, some .none] : List (Option Op)).getD k.toNat none ∧
    decodeScope k = ([some .lane0, some .lane1, some .pair, some .whole] : List (Option Scope)).getD k.toNat none ∧
    decodeRelation k = ([some .eq, some .ne, some .geu, some .ltu] : List (Option Relation)).getD k.toNat none ∧
    decodeLaneSel k = ([some .lane0, some .lane1, none, some .whole] : List (Option LaneSel)).getD k.toNat none) ∧
  ∀ (g : RingConfig) (x y : Slot),
    let kind := (slotByte x 0).toNat
    let op := (slotByte x 2).toNat
    let sc := (slotByte x 3).toNat
    let t := (slotHalf x 6).toNat
    let n := (slotHalf x 8).toNat
    let h := slotQuad x 16
    let w := (slotHalf y 8).toNat
    let marked := op ≤ 10 ∧ sc ≤ 3 ∧ (sc = 2 → op = 0 ∨ op = 2 ∨ op = 9 ∨ op = 10)
    let inside := fun c : Nat => g.windowBase ≤ c ∧ c < g.windowBase + g.windowCount ∧ c < 4096
    let holdFields := (marked ∨ (op = 15 ∧ sc ≤ 3)) ∧ slotByte y 0 = 0x3C ∧ (slotByte y 1).toNat ≤ 3 ∧
      ((slotByte y 2).toNat ≤ 1 ∨ (slotByte y 2).toNat = 3)
    (kind = 0 ∨ 7 ≤ kind → ∀ z, validateRequest g x z = .error .badRequest) ∧
    (kind = 1 → validateRequest g x none = .ok .nop) ∧
    (kind = 6 → validateRequest g x none = .ok (.cancel (slotHalf x 32) (slotHalf x 48))) ∧
    (kind = 2 →
      (¬ marked → validateRequest g x none = .error .badRequest) ∧
      (marked → ¬ inside t → validateRequest g x none = .error .denied) ∧
      (marked → inside t → ∃ act, validateRequest g x none = .ok (.update act) ∧ decodeOp (slotByte x 2) = some act.op ∧
        decodeScope (slotByte x 3) = some act.scope ∧ act.target.val = t ∧ act.a = slotOct x 32 ∧
        act.b = slotOct x 48)) ∧
    (kind = 3 →
      (¬ holdFields → validateRequest g x (some y) = .error .badRequest) ∧
      (holdFields → ¬ (inside t ∧ inside w) → validateRequest g x (some y) = .error .denied) ∧
      (holdFields → inside t → inside w → ∃ act cond,
        validateRequest g x (some y) = .ok (.hold act cond (slotWord y 4)) ∧ decodeOp (slotByte x 2) = some act.op ∧
        decodeScope (slotByte x 3) = some act.scope ∧ act.target.val = t ∧ act.a = slotOct x 32 ∧
        act.b = slotOct x 48 ∧ cond.cell.val = w ∧ decodeRelation (slotByte y 1) = some cond.rel ∧
        decodeLaneSel (slotByte y 2) = some cond.sel ∧ cond.mask = slotOct y 32 ∧ cond.value = slotOct y 48)) ∧
    (kind = 4 ∨ kind = 5 →
      ((n = 0 ∨ 64 < n ∨ h.toNat % 16 ≠ 0) → validateRequest g x none = .error .badRequest) ∧
      (1 ≤ n → n ≤ 64 → h.toNat % 16 = 0 → ¬ (inside t ∧ inside (t + n - 1)) →
        validateRequest g x none = .error .denied) ∧
      (1 ≤ n → n ≤ 64 → h.toNat % 16 = 0 → inside t → inside (t + n - 1) →
        validateRequest g x none = .ok (if kind = 4 then .bulkRead t n h else .bulkWrite t n h)))

/-- R31, R33, R108, R109: a record that validation refuses ends at once, whatever its FENCE and QUIET flags. Its one
slot, or the two of a HOLD, leave the buffer, the consumer index moves past them, and the context reports the status
with the kind and tag as read, clear flags, no value and count 0. -/
def Obligations.RefusedRecordsAreReportedAndPassed : Prop :=
  ∀ (s : State) (r : RingId) (x y : Slot) (rest : List (Option Slot)) (st : Status), s.device = .running →
    (s.ring r).state = .active → (s.ctx r).work = .empty → (s.ctx r).event = none →
    let kind := (slotByte x 0).toNat
    let after := fun n : Nat =>
      ((s.setRing r { s.ring r with
          consumer := ((s.ring r).consumer + n) % (s.ring r).config.size, buffer := rest }).setWork r
        (.reporting ⟨st, slotByte x 0, slotHalf x 4, ⟨false, false, false⟩, none, 0, s.timeBase.setWidth 32⟩)).joinList
        (s.ring r).config.cring (.ring r)
    ((s.ring r).buffer = some x :: rest → validateRequest (s.ring r).config x none = .error st →
      (kind = 0 ∨ 7 ≤ kind → exec (.unknownKind r) s = .next (after 1)) ∧
      (kind = 2 → exec (.update r) s = .next (after 1)) ∧
      (kind = 4 → exec (.bulkRead r) s = .next (after 1)) ∧
      (kind = 5 → exec (.bulkWrite r) s = .next (after 1))) ∧
    ((s.ring r).buffer = some x :: some y :: rest → validateRequest (s.ring r).config x (some y) = .error st →
      kind = 3 → exec (.hold r) s = .next (after 2))

/-- R108 to R110, R153: no record of a request ring is taken, and nothing changes, outside RUNNING, while the ring is
not ACTIVE, the context is not EMPTY or an event is pending, while the oldest slot, or the second slot of a HOLD, has not
arrived, and by a command of another kind than the oldest slot's; and no admin record outside RUNNING, while the admin
context is not EMPTY, or before the oldest admin slot has arrived (model: log entry 2). -/
def Obligations.RecordsWaitForTheirTurn : Prop :=
  (∀ s : State, (s.device ≠ .running ∨ s.adminCtx ≠ .empty ∨ ∀ x rest, s.admin.buffer ≠ some x :: rest) →
    ∀ c ∈ [Instr.adminNop, .adminUnknownKind, .configureRequestRing, .configureCompletionRing, .startRing, .stopRing,
      .resetRing, .resetCompletionRing, .cancelHolds, .clearCells, .readStatus], exec c s = .next s) ∧
  ∀ (s : State) (r : RingId) (c : Instr) (k : Nat),
    (c, k) ∈ [(Instr.nop r, 1), (.update r, 2), (.hold r, 3), (.bulkRead r, 4), (.bulkWrite r, 5), (.cancel r, 6),
      (.unknownKind r, 7)] →
    ((s.device ≠ .running ∨ (s.ring r).state ≠ .active ∨ (s.ctx r).work ≠ .empty ∨ (s.ctx r).event ≠ none) →
      exec c s = .next s) ∧
    ((∀ x rest, (s.ring r).buffer ≠ some x :: rest) → exec c s = .next s) ∧
    (k = 3 → (∀ x y rest, (s.ring r).buffer ≠ some x :: some y :: rest) → exec c s = .next s) ∧
    ∀ x rest, (s.ring r).buffer = some x :: rest →
      (if 1 ≤ (slotByte x 0).toNat ∧ (slotByte x 0).toNat ≤ 6 then (slotByte x 0).toNat else 7) ≠ k →
      exec c s = .next s

/-- R110, R114, R115, R118 to R120, R123: a record that passes validation leaves the buffer and its request starts,
unless FENCE is set while the ring has an ARMED entry: then it waits in WAIT_FENCE. A NOP ends OK at once, or silently
with QUIET; an UPDATE, a HOLD and a BULK READ enter RUNNING; a BULK WRITE enters LOADING with its read not issued; a
bulk transfer starts with k = 0 and its changed mark clear. -/
def Obligations.ValidRequestsStartOrWaitAtTheirFence : Prop :=
  ∀ (s : State) (r : RingId) (x y : Slot) (rest : List (Option Slot)) (body : Body), s.device = .running →
    (s.ring r).state = .active → (s.ctx r).work = .empty → (s.ctx r).event = none →
    let h := slotHeader x
    let u := s.ctx r
    let after := fun (n : Nat) (z : RingContext) =>
      (s.setRing r { s.ring r with
        consumer := ((s.ring r).consumer + n) % (s.ring r).config.size, buffer := rest }).setCtx r z
    h = ⟨slotByte x 0, slotHalf x 4, (slotByte x 1).getLsbD 0, (slotByte x 1).getLsbD 1, (slotByte x 1).getLsbD 2⟩ ∧
    ((s.ring r).buffer = some x :: rest → validateRequest (s.ring r).config x none = .ok body →
      (h.fence = true → s.armedCount r ≠ 0 →
        ∀ c k, (c, k) ∈ [(Instr.nop r, 1), (.update r, 2), (.bulkRead r, 4), (.bulkWrite r, 5), (.cancel r, 6)] →
          (slotByte x 0).toNat = k → exec c s = .next (after 1 { u with work := .waitFence ⟨h, body⟩ })) ∧
      ((h.fence = false ∨ s.armedCount r = 0) →
        ((slotByte x 0).toNat = 1 → h.quiet = true → exec (.nop r) s = .next (after 1 u)) ∧
        ((slotByte x 0).toNat = 1 → h.quiet = false → exec (.nop r) s = .next
          ((after 1 { u with work := .reporting ⟨.ok, 1, h.tag, ⟨false, false, false⟩, none, 0,
            s.timeBase.setWidth 32⟩ }).joinList (s.ring r).config.cring (.ring r))) ∧
        ((slotByte x 0).toNat = 2 → exec (.update r) s = .next (after 1 { u with work := .running ⟨h, body⟩ })) ∧
        ((slotByte x 0).toNat = 4 → exec (.bulkRead r) s = .next
          (after 1 { u with work := .running ⟨h, body⟩, progress := 0, changedMark := false })) ∧
        ((slotByte x 0).toNat = 5 → exec (.bulkWrite r) s = .next
          (after 1 { u with work := .loading ⟨h, body⟩ false, progress := 0, changedMark := false })))) ∧
    ((s.ring r).buffer = some x :: some y :: rest → validateRequest (s.ring r).config x (some y) = .ok body →
      (slotByte x 0).toNat = 3 →
      (h.fence = true → s.armedCount r ≠ 0 →
        exec (.hold r) s = .next (after 2 { u with work := .waitFence ⟨h, body⟩ })) ∧
      ((h.fence = false ∨ s.armedCount r = 0) →
        exec (.hold r) s = .next (after 2 { u with work := .running ⟨h, body⟩ })))

/-- R83, R84, R135: a CANCEL with no fence to wait for ends, in one claim, every ARMED entry of its own ring whose
masked tag equals the masked match value: each becomes ENDING CANCELLED with the time of the claim and leaves its watch
list and the deadline list. They join the ring's outcome list in ascending entry number, and the CANCEL's own OK with
their count follows them unless it is QUIET. All other entries are left as they were. Each claim acts on the wake queue
and the scan as ClaimsEndArmedEntriesAlone states. -/
def Obligations.CancelEndsItsRingsMatchingEntries : Prop :=
  ∀ (s : State) (r : RingId) (x : Slot) (rest : List (Option Slot)), s.HoldLaw → s.device = .running →
    (s.ring r).state = .active → (s.ctx r).work = .empty → (s.ctx r).event = none →
    (s.ring r).buffer = some x :: rest → (slotByte x 0).toNat = 6 →
    ((slotByte x 1).getLsbD 0 = false ∨ s.armedCount r = 0) →
    let hit := fun e : EntryId => (s.entry e).any (fun z => z.isArmed && z.origin = r &&
      (z.tag &&& slotHalf x 48) = (slotHalf x 32 &&& slotHalf x 48))
    let es := (List.finRange 256).filter hit
    let now : BitVec 32 := s.timeBase.setWidth 32
    let c := (s.ring r).config.cring
    let s1 := s.setRing r { s.ring r with
      consumer := ((s.ring r).consumer + 1) % (s.ring r).config.size, buffer := rest }
    let s2 := es.foldl (fun u e => u.claimEnd .cancelled e) s1
    ∃ t, exec (.cancel r) s = .next t ∧
      ((slotByte x 1).getLsbD 1 = true → t = s2) ∧
      ((slotByte x 1).getLsbD 1 = false → t = (s2.setWork r (.reporting
        ⟨.ok, 6, slotHalf x 4, ⟨false, false, false⟩, none, es.length, now⟩)).joinList c (.ring r)) ∧
      (∀ e, t.entry e = if hit e then
          (s.entry e).map (fun z => { z with state := .ending ⟨.cancelled, ⟨false, false, false⟩, none, now⟩ })
        else s.entry e) ∧
      (∀ d, t.watchList d = (s.watchList d).filter (fun e => !hit e)) ∧
      t.deadlines = s.deadlines.filter (fun e => !hit e) ∧
      ((∀ e z, s.entry e = some z → z.origin = r → z.cring = c) → (t.cring c).list =
        (s.cring c).list ++ es.map Source.entry ++ if (slotByte x 1).getLsbD 1 then [] else [.ring r]) ∧
      t.mem = s.mem ∧ t.occupancy = s.occupancy ∧ (∀ i, i ≠ r → t.ctx i = s.ctx i)

/-- R110, R114, R115: a request in WAIT_FENCE starts at the claim that leaves its ring without an ARMED entry, and
stays while one is ARMED. An UPDATE, a HOLD or a BULK READ then enters RUNNING, a BULK WRITE LOADING, a NOP and a CANCEL
end OK with count 0, or silently with QUIET. Outside RUNNING it stays (log entry 14). -/
def Obligations.FencesOpenWithTheLastArmedEntry : Prop :=
  ∀ (s : State) (r : RingId) (q : Request), (s.ctx r).work = .waitFence q →
    let u := s.ctx r
    ((s.device ≠ .running ∨ s.armedCount r ≠ 0) → s.releaseFence r = s) ∧
    (s.device = .running → s.armedCount r = 0 →
      (∀ act, q.body = .update act → s.releaseFence r = s.setCtx r { u with work := .running q }) ∧
      (∀ act cond timeout, q.body = .hold act cond timeout →
        s.releaseFence r = s.setCtx r { u with work := .running q }) ∧
      (∀ f n h, q.body = .bulkRead f n h → s.releaseFence r =
        s.setCtx r { u with work := .running q, progress := 0, changedMark := false }) ∧
      (∀ f n h, q.body = .bulkWrite f n h → s.releaseFence r =
        s.setCtx r { u with work := .loading q false, progress := 0, changedMark := false }) ∧
      ((q.body = .nop ∨ ∃ v m, q.body = .cancel v m) →
        (q.header.quiet = true → s.releaseFence r = s.setCtx r { u with work := .empty }) ∧
        (q.header.quiet = false → s.releaseFence r =
          (s.setCtx r { u with work := .reporting ⟨.ok, q.header.kind, q.header.tag, ⟨false, false, false⟩, none, 0,
            s.timeBase.setWidth 32⟩ }).joinList (s.ring r).config.cring (.ring r))))

/-! ### The cell port -/

/-- R18 to R21: the grant decision in RUNNING. The Wake Scan comes first, then the admin context, and neither moves the
pointer or the credit; then the ring at the pointer while it has work and credit, and otherwise the first ring with
work after the pointer, whose weight reloads the credit. No one else is granted. In RESETTING only the operation in
progress at the entry completes, and in IDLE and HALTED no grant is made. The last cell of a BULK READ has work while a
place of the posted-write queue is free that no held message waits for (R121, R174) and no record can be written, since a
free place goes to a record before it goes to bulk data (log entry 12). -/
def Obligations.GrantsFollowTheArbiter : Prop :=
  (∀ s : State, s.device = .running →
    (s.scan ≠ .idle → s.grant .scan = some s ∧ s.grant .admin = none ∧ ∀ r, s.grant (.ring r) = none) ∧
    (s.scan = .idle → s.adminHasWork = true →
      s.grant .scan = none ∧ s.grant .admin = some s ∧ ∀ r, s.grant (.ring r) = none) ∧
    (s.scan = .idle → s.adminHasWork = false → s.grant .scan = none ∧ s.grant .admin = none ∧
      (s.hasWork s.arbPointer = true → 0 < s.arbCredit →
        s.grant (.ring s.arbPointer) = some { s with arbCredit := s.arbCredit - 1 } ∧
        ∀ r, r ≠ s.arbPointer → s.grant (.ring r) = none) ∧
      (s.hasWork s.arbPointer = false ∨ s.arbCredit = 0 → ∀ k : Nat, k < 8 →
        let r : RingId := s.arbPointer + 1 + Fin.ofNat 8 k
        (∀ j, j < k → s.hasWork (s.arbPointer + 1 + Fin.ofNat 8 j) = false) → s.hasWork r = true →
        s.grant (.ring r) = some { s with arbPointer := r, arbCredit := (s.ring r).config.weight - 1 } ∧
        ∀ i, i ≠ r → s.grant (.ring i) = none))) ∧
  (∀ (s : State) (r : RingId), (s.hasWork r = true ↔
    ∃ q, ((s.ctx r).work = .running q ∧ ((∃ act, q.body = .update act) ∨ (∃ a k t, q.body = .hold a k t) ∨
        (∃ f n h, q.body = .bulkRead f n h ∧ ((s.ctx r).progress + 1 < n ∨
          ((s.ctx r).progress + 1 = n ∧ s.postq.length < 16 ∧ (∀ v : VectorId, s.held[v] = none) ∧
            ∀ l, s.canWrite l = false))) ∨
        ∃ f n h, q.body = .bulkWrite f n h ∧ (s.ctx r).progress < n)) ∨
      ∃ d, (s.ctx r).work = .waitEntry q d true)) ∧
  (∀ s : State, (s.adminHasWork = true ↔ ∃ kind tag f n k m, s.adminCtx = .running kind tag f n k m ∧ k < n)) ∧
  (∀ (s : State) (q : Requester), (s.device = .idle ∨ s.device = .halted) → s.grant q = none) ∧
  ∀ (s : State) (q : Requester), s.device = .resetting →
    s.grant q = if s.portOp = some q then some { s with portOp := none } else none

/-- R3, R13 to R15, R17, R22, R23, R36, R111, R143: the operation of an UPDATE, and of a hold whose condition holds at its
arrival or at a retry. The op replaces the scoped value of the target cell and no other byte of any cell changes; with
NONE nothing does. The request ends OK with count 1, the flags of the action, and with RETURN the target as it was, or
the watched cell for NONE; with QUIET it ends unreported. The change is reported to the Wake Scan. -/
def Obligations.ActionsArePerformedAtArrival : Prop :=
  ∀ (s g : State) (r : RingId) (h : Header) (act : Action) (c : Instr) (w : CellValue), Memory.wf s.mem = true →
    s.grant (.ring r) = some g →
    ((c = .updateOperation r ∧ (s.ctx r).work = .running ⟨h, .update act⟩ ∧ act.op ≠ .none) ∨
      ∃ cond timeout, w = readCell s.mem cond.cell ∧ cond.holds w = true ∧
        ((c = .holdArrival r ∧ (s.ctx r).work = .running ⟨h, .hold act cond timeout⟩) ∨
          ∃ d, c = .holdRetry r ∧ (s.ctx r).work = .waitEntry ⟨h, .hold act cond timeout⟩ d true)) →
    let old := readCell s.mem act.target
    let new := if act.op = .none then old else scopedValue act.op act.scope old act.a act.b
    let flags : Flags := if act.op = .none then ⟨false, false, false⟩ else
      ⟨new ≠ old, scopedWrap act.op act.scope old act.a, scopedMatched act.op act.scope old act.b⟩
    let value := if h.ret then some (if act.op = .none then w else old) else none
    let ring := (s.ring r).config.cring
    ∃ t, exec c s = .next t ∧
      (∀ a, readByte t.mem a = if 16 * act.target.val ≤ a ∧ a < 16 * act.target.val + 16 then
        cellByte new (a - 16 * act.target.val) else readByte s.mem a) ∧
      (h.quiet = true → t.ctx r = { s.ctx r with work := .empty } ∧ t.crings = s.crings) ∧
      (h.quiet = false → t.ctx r = { s.ctx r with
          work := .reporting ⟨.ok, h.kind, h.tag, flags, value, 1, s.timeBase.setWidth 32⟩ } ∧
        t.cring ring = { s.cring ring with list := (s.cring ring).list ++ [.ring r] } ∧
        ∀ i, i ≠ ring → t.cring i = s.cring i) ∧
      (∀ i, i ≠ r → t.ctx i = s.ctx i) ∧ s.ChangeReported t act.target (new ≠ old) ∧
      { t with mem := g.mem, contexts := g.contexts, crings := g.crings, scan := g.scan, wakeQueue := g.wakeQueue } = g

/-- R29, R37, R38, R40, R42: a hold whose condition does not hold at its arrival or retry, and which is not armed. With
timeout 0 it ends NOT_MET, with the watched cell when RETURN is set; a retry whose deadline is reached ends TIMEOUT;
with its ring's quota reached it ends QUOTA; and with no entry FREE it waits in WAIT_ENTRY, not ready, with the deadline
of its first evaluation. No cell changes. -/
def Obligations.FalseHoldsEndOrWaitForAnEntry : Prop :=
  ∀ (s g : State) (r : RingId) (h : Header) (act : Action) (cond : Condition) (timeout : BitVec 32),
    s.grant (.ring r) = some g → cond.holds (readCell s.mem cond.cell) = false →
    let q : Request := ⟨h, .hold act cond timeout⟩
    let ends := fun (st : Status) (v : Option CellValue) =>
      (Host.Outcome.next : State → Host.Outcome State Fault Refusal)
        ((g.setWork r (.reporting ⟨st, h.kind, h.tag, ⟨false, false, false⟩, v, 0, s.timeBase.setWidth 32⟩)).joinList
          (s.ring r).config.cring (.ring r))
    ((s.ctx r).work = .running q →
      let d := if timeout = 0xFFFFFFFF then none else some (s.timeBase + timeout.setWidth 48)
      (timeout = 0 → exec (.holdArrival r) s =
        ends .notMet (if h.ret then some (readCell s.mem cond.cell) else none)) ∧
      (timeout ≠ 0 → (s.ring r).config.quota ≤ s.occ r → exec (.holdArrival r) s = ends .quota none) ∧
      (timeout ≠ 0 → s.occ r < (s.ring r).config.quota → (∀ e, s.entry e ≠ none) →
        exec (.holdArrival r) s = .next (g.setWork r (.waitEntry q d false)))) ∧
    ∀ d : Option Time, (s.ctx r).work = .waitEntry q d true →
      let reached := ∃ v, d = some v ∧ (s.timeBase.toNat + 2 ^ 48 - v.toNat) % 2 ^ 48 < 2 ^ 47
      (reached → exec (.holdRetry r) s = ends .timeout none) ∧
      (¬ reached → (s.ring r).config.quota ≤ s.occ r → exec (.holdRetry r) s = ends .quota none) ∧
      (¬ reached → s.occ r < (s.ring r).config.quota → (∀ e, s.entry e ≠ none) →
        exec (.holdRetry r) s = .next (g.setWork r (.waitEntry q d false)))

/-- R29, R38, R45, R47, R48, R56, R78: a hold whose condition does not hold, below its ring's quota, is armed into the
lowest-numbered FREE entry at its arrival or retry. The entry takes the request's fields, joins the tail of the watched
cell's list and, with a finite deadline, the deadline list behind every earlier or equal deadline; the occupancy rises
by one and the context becomes EMPTY. No cell changes and nothing is reported. -/
def Obligations.FalseHoldsArmTheLowestFreeEntry : Prop :=
  ∀ (s g : State) (r : RingId) (h : Header) (act : Action) (cond : Condition) (timeout : BitVec 32)
    (d : Option Time) (e : EntryId) (c : Instr), sparseWf [] s.watch = true →
    s.grant (.ring r) = some g → cond.holds (readCell s.mem cond.cell) = false →
    s.occ r < (s.ring r).config.quota → s.entry e = none → (∀ i, i < e → s.entry i ≠ none) →
    ((c = .holdArrival r ∧ (s.ctx r).work = .running ⟨h, .hold act cond timeout⟩ ∧ timeout ≠ 0 ∧
        d = if timeout = 0xFFFFFFFF then none else some (s.timeBase + timeout.setWidth 48)) ∨
      (c = .holdRetry r ∧ (s.ctx r).work = .waitEntry ⟨h, .hold act cond timeout⟩ d true ∧
        ∀ v, d = some v → 2 ^ 47 ≤ (s.timeBase.toNat + 2 ^ 48 - v.toNat) % 2 ^ 48)) →
    ∃ t, exec c s = .next t ∧
      t.entry e = some ⟨.armed, r, (s.ring r).generation, h.tag, h.quiet, h.ret, (s.ring r).config.cring, cond, act,
        d⟩ ∧
      (∀ i, i ≠ e → t.entry i = s.entry i) ∧
      t.watchList cond.cell = s.watchList cond.cell ++ [e] ∧
      (∀ i, i ≠ cond.cell → t.watchList i = s.watchList i) ∧
      (d = none → t.deadlines = s.deadlines) ∧
      (∀ v, d = some v → ∃ pre post, s.deadlines = pre ++ post ∧ t.deadlines = pre ++ e :: post ∧
        (∀ i ∈ pre, s.entryRemaining i ≤ (v - s.timeBase).toNat) ∧
        ∀ i ∈ post.head?, (v - s.timeBase).toNat < s.entryRemaining i) ∧
      t.occ r = s.occ r + 1 ∧ (∀ i, i ≠ r → t.occ i = s.occ i) ∧
      t.ctx r = { s.ctx r with work := .empty } ∧ (∀ i, i ≠ r → t.ctx i = s.ctx i) ∧
      { t with table := g.table, watch := g.watch, deadlines := g.deadlines, occupancy := g.occupancy,
               contexts := g.contexts } = g

/-- R50, R55, R58, R61 to R65, R67, R70, R115: a scan step whose entry's condition holds fires it in the one operation.
The action changes its target cell alone; the entry leaves its watch list and the deadline list and becomes ENDING OK
with its result, or FREE when QUIET; a changed target with watchers left joins the wake queue; the position goes to the
entry that stood behind it, or the scan takes the head of the queue or becomes IDLE; and the fence of the entry's ring
opens with its last ARMED entry. -/
def Obligations.ScanStepsFireTrueEntries : Prop :=
  ∀ (s g : State) (c : CellId) (e : EntryId) (x : HoldEntry), s.grant .scan = some g → Memory.wf s.mem = true →
    sparseWf [] s.watch = true → s.scan = .scanning c e → s.entry e = some x → x.isArmed = true →
    x.cond.cell = c → x.cond.holds (readCell s.mem c) = true →
    let old := readCell s.mem x.act.target
    let new := if x.act.op = .none then old else scopedValue x.act.op x.act.scope old x.act.a x.act.b
    let flags : Flags := if x.act.op = .none then ⟨false, false, false⟩ else
      ⟨new ≠ old, scopedWrap x.act.op x.act.scope old x.act.a, scopedMatched x.act.op x.act.scope old x.act.b⟩
    let value := if x.ret then some (if x.act.op = .none then readCell s.mem c else old) else none
    let left := (s.watchList c).erase e
    let q0 := if left = [] then s.wakeQueue.erase c else s.wakeQueue
    ∃ u : State, exec .scanStep s = .next (u.releaseFence x.origin) ∧
      (∀ a, readByte u.mem a = if 16 * x.act.target.val ≤ a ∧ a < 16 * x.act.target.val + 16 then
        cellByte new (a - 16 * x.act.target.val) else readByte s.mem a) ∧
      (∀ i, i ≠ e → u.entry i = s.entry i) ∧
      u.watchList c = left ∧ (∀ d, d ≠ c → u.watchList d = s.watchList d) ∧ u.deadlines = s.deadlines.erase e ∧
      (x.quiet = true → u.entry e = none ∧ u.occ x.origin = s.occ x.origin - 1 ∧
        (∀ i, i ≠ x.origin → u.occ i = s.occ i) ∧ u.crings = s.crings ∧
        (∀ i q d b, (s.ctx i).work = .waitEntry q d b → u.ctx i = { s.ctx i with work := .waitEntry q d true }) ∧
        ∀ i, (∀ q d b, (s.ctx i).work ≠ .waitEntry q d b) → u.ctx i = s.ctx i) ∧
      (x.quiet = false →
        u.entry e = some { x with state := .ending ⟨.ok, flags, value, s.timeBase.setWidth 32⟩ } ∧
        u.occupancy = s.occupancy ∧ u.contexts = s.contexts ∧
        u.cring x.cring = { s.cring x.cring with list := (s.cring x.cring).list ++ [.entry e] } ∧
        ∀ i, i ≠ x.cring → u.cring i = s.cring i) ∧
      (let q1 := if new ≠ old ∧ u.watchList x.act.target ≠ [] ∧ x.act.target ∉ q0 then q0 ++ [x.act.target] else q0
       ∀ pre post, s.watchList c = pre ++ e :: post → e ∉ pre →
        (∀ f rest, post = f :: rest → u.scan = .scanning c f ∧ u.wakeQueue = q1) ∧
        (post = [] → q1 = [] → u.scan = .idle ∧ u.wakeQueue = []) ∧
        (post = [] → ∀ d f rest, q1 = d :: rest → (u.watchList d).head? = some f →
          u.scan = .scanning d f ∧ u.wakeQueue = rest)) ∧
      { u with mem := g.mem, table := g.table, watch := g.watch, deadlines := g.deadlines, occupancy := g.occupancy,
               crings := g.crings, contexts := g.contexts, scan := g.scan, wakeQueue := g.wakeQueue } = g

/-- R64, R65, R67, R73: a scan step whose entry's condition does not hold changes nothing but the position, which goes to
the next entry of the list; past its end the scan takes the head of the wake queue or becomes IDLE. An idle scan takes
no step, and no step is taken in HALTED. -/
def Obligations.ScanStepsPassFalseEntries : Prop :=
  (∀ (s g : State) (c : CellId) (e : EntryId) (x : HoldEntry) (pre post : List EntryId), s.grant .scan = some g →
    s.scan = .scanning c e → s.entry e = some x → x.isArmed = true → x.cond.holds (readCell s.mem c) = false →
    s.watchList c = pre ++ e :: post → e ∉ pre →
    (∀ f rest, post = f :: rest → exec .scanStep s = .next { g with scan := .scanning c f }) ∧
    (post = [] → s.wakeQueue = [] → exec .scanStep s = .next { g with scan := .idle }) ∧
    (post = [] → ∀ d f rest, s.wakeQueue = d :: rest → (s.watchList d).head? = some f →
      exec .scanStep s = .next { g with scan := .scanning d f, wakeQueue := rest })) ∧
  ∀ s : State, (s.scan = .idle ∨ s.device = .halted ∨ s.device = .idle) → exec .scanStep s = .next s

/-- R119 to R121, R125, R128: one cell of a bulk transfer under a grant. A BULK READ copies cell f + k to place k of its
staging buffer, and with the last one hands over the n staged cells as one posted write to h before its outcome joins
the list. A BULK WRITE stores place k of its buffer into cell f + k, reports the change and keeps the changed mark, and
ends OK with CHANGED equal to the mark. Each ends with count n, unreported when QUIET. The last cell of a BULK READ that
completes in RESETTING hands over and decides nothing (log entry 28). -/
def Obligations.BulkCellsMoveOneAtATime : Prop :=
  ∀ (s g : State) (r : RingId) (h : Header) (f n : Nat) (host : HostAddr), s.grant (.ring r) = some g →
    Memory.wf (s.ctx r).staging = true → (s.ctx r).progress < n → ∀ hc : f + (s.ctx r).progress < 4096,
    let u := s.ctx r
    let k := u.progress
    let ring := (s.ring r).config.cring
    let ended := fun (t : State) (staging : List Host.Cell) (mark : Bool) (flags : Flags) =>
      (h.quiet = true →
        t.ctx r = ⟨.empty, u.event, staging, n, mark⟩ ∧ t.crings = s.crings) ∧
      (h.quiet = false →
        t.ctx r = ⟨.reporting ⟨.ok, h.kind, h.tag, flags, none, n, s.timeBase.setWidth 32⟩, u.event, staging, n,
          mark⟩ ∧
        t.cring ring = { s.cring ring with list := (s.cring ring).list ++ [.ring r] } ∧
        ∀ i, i ≠ ring → t.cring i = s.cring i)
    (u.work = .running ⟨h, .bulkRead f n host⟩ → ∃ b : List Host.Cell,
      (∀ j, readCell b j = if j = k then readCell s.mem (f + k) else readCell u.staging j) ∧
      ((k + 1 < n ∨ s.device = .resetting) → exec (.bulkReadCell r) s =
        .next (g.setCtx r { u with staging := b, progress := k + 1 })) ∧
      (k + 1 = n → s.device = .running → ∃ t cells, exec (.bulkReadCell r) s = .next t ∧
        t.postq = s.postq ++ [.bulkData host cells] ∧ cells.length = n ∧
        (∀ i, i < n → cells[i]? = some (readCell b i)) ∧ ended t b u.changedMark ⟨false, false, false⟩ ∧
        (∀ i, i ≠ r → t.ctx i = s.ctx i) ∧
        { t with postq := g.postq, contexts := g.contexts, crings := g.crings } = g)) ∧
    (u.work = .running ⟨h, .bulkWrite f n host⟩ → Memory.wf s.mem = true →
      let mark := u.changedMark || decide (readCell s.mem (f + k) ≠ readCell u.staging k)
      ∃ t, exec (.bulkWriteCell r) s = .next t ∧
        (∀ a, readByte t.mem a = if 16 * (f + k) ≤ a ∧ a < 16 * (f + k) + 16 then
          cellByte (readCell u.staging k) (a - 16 * (f + k)) else readByte s.mem a) ∧
        (k + 1 < n → t.ctx r = { u with progress := k + 1, changedMark := mark } ∧ t.crings = s.crings) ∧
        (k + 1 = n → ended t u.staging mark ⟨mark, false, false⟩) ∧
        s.ChangeReported t ⟨f + k, hc⟩ (readCell s.mem (f + k) ≠ readCell u.staging k) ∧
        (∀ i, i ≠ r → t.ctx i = s.ctx i) ∧
        { t with mem := g.mem, contexts := g.contexts, crings := g.crings, scan := g.scan,
                 wakeQueue := g.wakeQueue } = g)

/-- R129, R154, R159: one cell of a CLEAR CELLS under a grant becomes zero, its change is reported and marked, and k
rises; the last one ends the request OK with CHANGED equal to the mark and count n, in the admin completion area's
list. -/
def Obligations.ClearCellsZeroesOneCellAGrant : Prop :=
  ∀ (s g : State) (kind : Byte) (tag : BitVec 16) (f n k : Nat) (m : Bool), s.grant .admin = some g →
    Memory.wf s.mem = true → s.adminCtx = .running kind tag f n k m → k < n → ∀ hc : f + k < 4096,
    let mark := m || decide (readCell s.mem (f + k) ≠ 0)
    ∃ t, exec .clearCellsCell s = .next t ∧
      (∀ a, readByte t.mem a = if 16 * (f + k) ≤ a ∧ a < 16 * (f + k) + 16 then 0 else readByte s.mem a) ∧
      (k + 1 < n → t.adminCtx = .running kind tag f n (k + 1) mark ∧ t.adminArea = s.adminArea) ∧
      (k + 1 = n → t.adminCtx = .reporting ⟨.ok, kind, tag, ⟨mark, false, false⟩, none, n, s.timeBase.setWidth 32⟩ ∧
        t.adminArea = { s.adminArea with list := s.adminArea.list ++ [.admin] }) ∧
      s.ChangeReported t ⟨f + k, hc⟩ (readCell s.mem (f + k) ≠ 0) ∧
      { t with mem := g.mem, adminCtx := g.adminCtx, adminArea := g.adminArea, scan := g.scan,
               wakeQueue := g.wakeQueue } = g

/-! ### Completions and posted writes -/

/-- R51, R55, R136, R137, R139 to R141, R145 to R148, R174, R176: the write of the head record of completion ring `c`. It is
made in RUNNING while the ring is ACTIVE and not full, the posted-write queue has a place, no message is held and no
earlier list can write. One posted write of the record goes to base + 32 x producer; the head leaves
the list, the producer advances and the phase flips at its wrap; the unsignalled count and the timer follow, and the
count that reaches the threshold sends the ring's message behind the record; and the source is freed. When a condition
fails nothing changes. The model's choices: an earlier list that can write comes first however many places are free
(log entry 12), the message number of the hand-over (log entry 9), its sum with the data in 16 bits (log entry 40), and an
address past the end of the 64-bit host space, which wraps (log entry 37). -/
def Obligations.RingRecordsAreWrittenAndDelivered : Prop :=
  (∀ (s : State) (c : CRingId) (src : Source) (rest : List Source) (bytes : RecordBytes), s.device = .running →
    let x := s.cring c
    let v : VectorId := ⟨c.val + 1, by omega⟩
    let m : Message := ⟨s.cfg.msiAddress, s.cfg.msiData + BitVec.ofNat 16 ((c.val + 1) % 2 ^ s.cfg.msiLog2.val)⟩
    let next := (x.producer + 1) % x.size
    let signals := x.intEnable = true ∧ x.threshold ≤ x.unsignalled + 1
    let record := PostedWrite.record (x.base + BitVec.ofNat 64 (32 * x.producer)) bytes
    x.list = src :: rest → x.active = true → next ≠ x.consumer → (∀ i : VectorId, s.held[i] = none) →
    s.postq.length < 16 → s.canWrite .admin = false → (∀ i, i < c → s.canWrite (.ring i) = false) →
    ((∃ e z res, src = .entry e ∧ s.entry e = some z ∧ z.state = .ending res ∧
        bytes = formRecord x.phase (BitVec.ofNat 8 z.origin.val) (s.ring z.origin).consumer
          ⟨res.status, 3, z.tag, res.flags, res.value, if res.status = .ok then 1 else 0, res.endTime⟩) ∨
      ∃ r o, src = .ring r ∧ (s.ctx r).work = .reporting o ∧
        bytes = formRecord x.phase (BitVec.ofNat 8 r.val) (s.ring r).consumer o) →
    ∃ t, exec (.completionRecordWrite (.ring c)) s = .next t ∧
      t.cring c = { x with
        list := rest, producer := next, phase := if next = 0 then !x.phase else x.phase
        unsignalled := if x.intEnable = false then x.unsignalled else if signals then 0 else x.unsignalled + 1
        timer := if signals then none
          else if x.intEnable = true ∧ x.unsignalled = 0 ∧ x.holdoff ≠ 0 then some x.holdoff else x.timer } ∧
      (∀ i, i ≠ c → t.cring i = s.cring i) ∧
      (¬ signals → t.postq = s.postq ++ [record] ∧ t.held = s.held) ∧
      (signals → s.postq.length < 15 → t.postq = s.postq ++ [record, .message m] ∧ t.held = s.held) ∧
      (signals → s.postq.length = 15 → t.postq = s.postq ++ [record] ∧
        ∀ i : VectorId, t.held[i] = if i = v then some m else none) ∧
      (∀ e z, src = .entry e → s.entry e = some z →
        (∀ i, t.entry i = if i = e then none else s.entry i) ∧
        (∀ r, t.occ r = if r = z.origin then s.occ r - 1 else s.occ r) ∧
        (∀ r q d b, (s.ctx r).work = .waitEntry q d b → t.ctx r = { s.ctx r with work := .waitEntry q d true }) ∧
        ∀ r, (∀ q d b, (s.ctx r).work ≠ .waitEntry q d b) → t.ctx r = s.ctx r) ∧
      (∀ r, src = .ring r → t.table = s.table ∧ t.occupancy = s.occupancy ∧
        ∀ i, t.ctx i = if i = r then { s.ctx r with work := .empty } else s.ctx i) ∧
      { t with crings := s.crings, postq := s.postq, held := s.held, table := s.table, occupancy := s.occupancy,
               contexts := s.contexts } = s) ∧
  ∀ (s : State) (c : CRingId), ((s.cring c).list = [] ∨ (s.cring c).active = false ∨
      ((s.cring c).producer + 1) % (s.cring c).size = (s.cring c).consumer ∨ s.device ≠ .running ∨
      16 ≤ s.postq.length ∨ (∃ i : VectorId, s.held[i] ≠ none) ∨
      s.canWrite .admin = true ∨ ∃ i, i < c ∧ s.canWrite (.ring i) = true) →
    exec (.completionRecordWrite (.ring c)) s = .next s

/-- R132, R136, R137, R147, R154, R174: the record of the admin context, written in RUNNING under the same conditions, with
N as the size, to ADMIN BASE + 64 x N + 32 x producer. Every one is followed by a message on vector 0, held at its vector
when the record took the last place, and the admin context becomes EMPTY. When a condition fails nothing changes. That a
held message bars the record is DEDUCED (log entry 12 with R174); the wrap of the address is log entry 37. -/
def Obligations.AdminRecordsAreWrittenAndDelivered : Prop :=
  (∀ (s : State) (o : Report) (rest : List Source), s.device = .running → s.adminCtx = .reporting o →
    s.adminArea.list = .admin :: rest →
    let x := s.adminArea
    let n := s.admin.size
    let next := (x.producer + 1) % n
    let m : Message := ⟨s.cfg.msiAddress, s.cfg.msiData⟩
    let record := PostedWrite.record (s.admin.base + BitVec.ofNat 64 (64 * n) + BitVec.ofNat 64 (32 * x.producer))
      (formRecord x.phase 8 s.admin.consumer o)
    next ≠ x.consumer → (∀ i : VectorId, s.held[i] = none) → s.postq.length < 16 →
    ∃ t, exec (.completionRecordWrite .admin) s = .next t ∧
      t.adminCtx = .empty ∧
      t.adminArea = ⟨next, x.consumer, if next = 0 then !x.phase else x.phase, rest⟩ ∧
      (s.postq.length < 15 → t.postq = s.postq ++ [record, .message m] ∧ t.held = s.held) ∧
      (s.postq.length = 15 → t.postq = s.postq ++ [record] ∧
        ∀ i : VectorId, t.held[i] = if i = 0 then some m else none) ∧
      { t with adminCtx := s.adminCtx, adminArea := s.adminArea, postq := s.postq, held := s.held } = s) ∧
  ∀ s : State, (s.adminArea.list = [] ∨ (s.adminArea.producer + 1) % s.admin.size = s.adminArea.consumer ∨
      s.device ≠ .running ∨ 16 ≤ s.postq.length ∨ ∃ i : VectorId, s.held[i] ≠ none) →
    exec (.completionRecordWrite .admin) s = .next s

/-- R173 to R176, R181: the posted-write path. The head of the queue leaves while the part is a bus master, in every
device state; a message is dropped where it stands at the head while message-signalled interrupts are disabled, also when
the host disables them (log entry 38); a read reply leaves when nothing handed over before it is left; a held message
takes a free place, the lowest vector first; and with bus mastering disabled nothing leaves but the waiting read replies,
at once (log entry 17). -/
def Obligations.PostedWritesLeaveInOrder : Prop :=
  let dropped := fun (msiEnable : Bool) (q : List PostedWrite) =>
    if msiEnable then 0 else (q.takeWhile PostedWrite.isMessage).length
  let gone := fun (rs : List Reply) (n : Nat) => rs.map (fun y => { y with ahead := y.ahead - n })
  let done := fun y : Reply => decide (y.ahead = 0 ∧ y.heldAhead = [])
  let sent := fun rs : List Reply => (rs.filter done).map (fun y => LinkItem.reply y.bytes)
  let waits := fun rs : List Reply => rs.filter (fun y => !done y)
  (∀ (s : State) (w : PostedWrite) (rest : List PostedWrite), s.cfg.busMaster = true → s.postq = w :: rest →
    let n := dropped s.cfg.msiEnable rest
    let rs := gone s.replies (1 + n)
    ∃ out, exec .postedWriteDepart s = .next { s with
        postq := rest.drop n, replies := waits rs, link := s.link ++ out ++ sent rs } ∧
      ((∃ m, w = .message m ∧ s.cfg.msiEnable = false) → out = []) ∧
      (((∀ m, w ≠ .message m) ∨ s.cfg.msiEnable = true) → out = [.posted w])) ∧
  (∀ s : State, (s.cfg.busMaster = false ∨ s.postq = []) → exec .postedWriteDepart s = .next s) ∧
  (∀ (s : State) (v : VectorId) (m : Message), s.postq.length < 16 → s.held[v] = some m →
    (∀ i : VectorId, i < v → s.held[i] = none) →
    let q := if s.postq = [] ∧ s.cfg.msiEnable = false then [] else s.postq ++ [.message m]
    let rs := s.replies.map (fun y => if v ∈ y.heldAhead then
      { y with heldAhead := y.heldAhead.erase v, ahead := q.length } else y)
    ∃ t, exec .heldMessageRelease s = .next t ∧ t.postq = q ∧
      (∀ i : VectorId, t.held[i] = if i = v then none else s.held[i]) ∧
      t.replies = waits rs ∧ t.link = s.link ++ sent rs ∧
      { t with postq := s.postq, held := s.held, replies := s.replies, link := s.link } = s) ∧
  (∀ s : State, (16 ≤ s.postq.length ∨ ∀ i : VectorId, s.held[i] = none) → exec .heldMessageRelease s = .next s) ∧
  ∀ (s : State) (cfg : ConfigSpace),
    let n := dropped cfg.msiEnable s.postq
    let rs := gone s.replies n
    (cfg.busMaster = true → n = 0 → exec (.configurationSpaceWrite cfg) s = .next { s with cfg := cfg }) ∧
    (cfg.busMaster = true → n ≠ 0 → exec (.configurationSpaceWrite cfg) s = .next { s with
      cfg := cfg, postq := s.postq.drop n, replies := waits rs, link := s.link ++ sent rs }) ∧
    (cfg.busMaster = false → exec (.configurationSpaceWrite cfg) s = .next { s with
      cfg := cfg, postq := s.postq.drop n, replies := []
      link := s.link ++ s.replies.map (fun y => LinkItem.reply y.bytes) })

/-- R140, R185 with Tables 11-4 and 11-10: the 32 bytes of a completion record, field by field. -/
def Obligations.RecordsAreLaidOutByTable114 : Prop :=
  ∀ (phase : Bool) (source : Byte) (head : Nat) (o : Report),
    let b := formRecord phase source head o
    (b.extractLsb' 0 8).toNat = (if phase then 1 else 0) ∧
    ([Status.ok, .notMet, .timeout, .cancelled, .aborted, .badRequest, .denied, .quota, .readFault, .badConfig,
      .ringState])[(b.extractLsb' 8 8).toNat]? = some o.status ∧
    b.extractLsb' 16 8 = o.kind ∧ b.extractLsb' 24 8 = source ∧
    (b.extractLsb' 32 8).toNat = (if o.flags.changed then 1 else 0) + (if o.flags.wrap then 2 else 0) +
      (if o.flags.matched then 4 else 0) + (if o.value.isSome then 8 else 0) ∧
    b.extractLsb' 40 8 = 0 ∧ b.extractLsb' 48 16 = o.tag ∧
    (b.extractLsb' 64 16).toNat = head % 65536 ∧ (b.extractLsb' 80 16).toNat = o.count % 65536 ∧
    b.extractLsb' 96 32 = o.endTime ∧ b.extractLsb' 128 128 = o.value.getD 0

/-! ### Admin requests -/

/-- R129, R153 to R155, R159, R160, R184 with Tables 8-2 and 11-5: taking an admin record in RUNNING with the admin
context EMPTY. An admin NOP ends OK; an unknown kind BAD_REQUEST; READ STATUS gives the value its selector names, byte by
byte, or BAD_REQUEST; CLEAR CELLS ends BAD_CONFIG for a bad range and enters RUNNING otherwise. No admin command of
another kind than the record's takes it or changes anything (the model's choice: log entry 2). -/
def Obligations.AdminMarkersStatusAndClears : Prop :=
  ∀ (s : State) (x : Slot) (rest : List (Option Slot)), s.device = .running → s.adminCtx = .empty →
    s.admin.buffer = some x :: rest →
    let kind := (slotByte x 0).toNat
    let taken := { s with admin := { s.admin with consumer := (s.admin.consumer + 1) % s.admin.size, buffer := rest } }
    let ends := fun (st : Status) (v : Option CellValue) => { taken with
      adminCtx := .reporting ⟨st, slotByte x 0, slotHalf x 4, ⟨false, false, false⟩, v, 0, s.timeBase.setWidth 32⟩
      adminArea := { s.adminArea with list := s.adminArea.list ++ [.admin] } }
    let sel := (slotByte x 8).toNat
    let f := (slotHalf x 6).toNat
    let n := (slotHalf x 8).toNat
    (kind = 0x41 → exec .adminNop s = .next (ends .ok none)) ∧
    (kind < 0x41 ∨ 0x4A < kind → exec .adminUnknownKind s = .next (ends .badRequest none)) ∧
    (kind = 0x49 → (n = 0 ∨ 4096 < n ∨ 4096 < f + n) → exec .clearCells s = .next (ends .badConfig none)) ∧
    (kind = 0x49 → 1 ≤ n → f + n ≤ 4096 → exec .clearCells s = .next { taken with
      adminCtx := .running (slotByte x 0) (slotHalf x 4) f n 0 false }) ∧
    (kind = 0x4A → sel = 0 → ∃ v : CellValue, exec .readStatus s = .next (ends .ok (some v)) ∧
      v.extractLsb' 0 8 = 1 ∧ (v.extractLsb' 16 16).toNat = s.totalOccupancy ∧
      (v.extractLsb' 32 16).toNat = s.wakeQueue.length % 65536 ∧
      (v.extractLsb' 48 16).toNat = s.deadlines.length % 65536 ∧ v.extractLsb' 64 32 = s.timeBase.setWidth 32 ∧
      v.extractLsb' 8 8 = 0 ∧ v.extractLsb' 96 32 = 0) ∧
    (kind = 0x4A → ∀ r : RingId, sel = 0x10 + r.val → ∃ v : CellValue, exec .readStatus s = .next (ends .ok (some v)) ∧
      ([RingState.unconfigured, .ready, .active, .draining, .stopped, .faulted])[(v.extractLsb' 0 8).toNat]? =
        some (s.ring r).state ∧
      (v.extractLsb' 8 8).toNat = (match (s.ctx r).work with
        | .empty => 0 | .waitFence _ => 1 | .waitEntry _ _ _ => 2 | .running _ => 3 | .loading _ _ => 4
        | .reporting _ => 5) ∧
      v.extractLsb' 16 8 = (s.ring r).generation ∧ (v.extractLsb' 32 16).toNat = (s.ring r).producer % 65536 ∧
      (v.extractLsb' 48 16).toNat = (s.ring r).consumer % 65536 ∧ (v.extractLsb' 64 16).toNat = s.occ r % 65536 ∧
      v.extractLsb' 24 8 = 0 ∧ v.extractLsb' 80 48 = 0) ∧
    (kind = 0x4A → ∀ c : CRingId, sel = 0x20 + c.val → ∃ v : CellValue, exec .readStatus s = .next (ends .ok (some v)) ∧
      (v.extractLsb' 0 8).toNat = (if (s.cring c).active then 1 else 0) ∧
      (v.extractLsb' 8 8).toNat = (s.cring c).unsignalled % 256 ∧
      (v.extractLsb' 32 16).toNat = (s.cring c).producer % 65536 ∧
      (v.extractLsb' 48 16).toNat = (s.cring c).consumer % 65536 ∧
      (v.extractLsb' 64 16).toNat = (s.cring c).list.length % 65536 ∧
      v.extractLsb' 16 16 = 0 ∧ v.extractLsb' 80 48 = 0) ∧
    (kind = 0x4A → sel ≠ 0 → (sel < 0x10 ∨ (0x18 ≤ sel ∧ sel < 0x20) ∨ 0x24 ≤ sel) →
      exec .readStatus s = .next (ends .badRequest none)) ∧
    (0x41 ≤ kind → kind ≤ 0x4A → exec .adminUnknownKind s = .next s) ∧
    ∀ c k, (c, k) ∈ [(Instr.adminNop, 0x41), (.configureRequestRing, 0x42), (.configureCompletionRing, 0x43),
        (.startRing, 0x44), (.stopRing, 0x45), (.resetRing, 0x46), (.resetCompletionRing, 0x47), (.cancelHolds, 0x48),
        (.clearCells, 0x49), (.readStatus, 0x4A)] → kind ≠ k → exec c s = .next s

/-- R92, R93, R99, R131, R155 to R157, R184: the two configures. A ring number out of range ends BAD_REQUEST, then an
item out of range BAD_CONFIG, then RING_STATE: for a request ring that is ACTIVE, DRAINING or FAULTED, has entries or a
request, or is barred by an outstanding read; for a completion ring that is ACTIVE. Otherwise the items are installed,
the indices are 0, a request ring's generation rises and it becomes READY, and a completion ring becomes ACTIVE with
phase 1 and keeps its outcome list. -/
def Obligations.ConfiguresInstallOrRefuse : Prop :=
  ∀ (s : State) (x : Slot) (rest : List (Option Slot)), s.device = .running → s.adminCtx = .empty →
    s.admin.buffer = some x :: rest →
    let taken := { s with admin := { s.admin with consumer := (s.admin.consumer + 1) % s.admin.size, buffer := rest } }
    let ends := fun (u : State) (st : Status) => { u with
      adminCtx := .reporting ⟨st, slotByte x 0, slotHalf x 4, ⟨false, false, false⟩, none, 0, s.timeBase.setWidth 32⟩
      adminArea := { s.adminArea with list := s.adminArea.list ++ [.admin] } }
    let ring := (slotByte x 8).toNat
    let b9 := (slotByte x 9).toNat
    let b10 := (slotByte x 10).toNat
    let size := (slotHalf x 12).toNat
    let h14 := (slotHalf x 14).toNat
    let base := slotQuad x 16
    let wb := (slotHalf x 24).toNat
    let wc := (slotHalf x 26).toNat
    let sizeOk := size ∈ [16, 32, 64, 128, 256, 512, 1024, 2048, 4096]
    ((slotByte x 0).toNat = 0x42 →
      let inRange := base.toNat % 64 = 0 ∧ sizeOk ∧ b9 ≤ 3 ∧ 1 ≤ b10 ∧ b10 ≤ 8 ∧ wb ≤ 4095 ∧ 1 ≤ wc ∧ wc ≤ 4096 ∧
        wb + wc ≤ 4096 ∧ h14 ≤ 256
      (8 ≤ ring → exec .configureRequestRing s = .next (ends taken .badRequest)) ∧
      (ring < 8 → ¬ inRange → exec .configureRequestRing s = .next (ends taken .badConfig)) ∧
      ∀ (r : RingId) (c : CRingId), ring = r.val → inRange → b9 = c.val →
        let y := s.ring r
        let allowed := (y.state = .unconfigured ∨ y.state = .ready ∨ y.state = .stopped) ∧ s.occ r = 0 ∧
          (s.ctx r).work = .empty ∧ ∀ p z, s.place p = some z → (z.owner = .fetch r ∨ z.owner = .bulk r) →
            z.deviceMark = true → z.ownerMark ≠ y.generation + 1
        (¬ allowed → exec .configureRequestRing s = .next (ends taken .ringState)) ∧
        (allowed → exec .configureRequestRing s = .next (ends (taken.setRing r
          ⟨.ready, ⟨base, size, c, b10, wb, wc, h14⟩, 0, 0, 0, y.generation + 1, []⟩) .ok))) ∧
    ((slotByte x 0).toNat = 0x43 →
      let inRange := base.toNat % 32 = 0 ∧ sizeOk ∧ 1 ≤ b10 ∧ b10 ≤ 64
      (4 ≤ ring → exec .configureCompletionRing s = .next (ends taken .badRequest)) ∧
      (ring < 4 → ¬ inRange → exec .configureCompletionRing s = .next (ends taken .badConfig)) ∧
      ∀ c : CRingId, ring = c.val → inRange →
        ((s.cring c).active = true → exec .configureCompletionRing s = .next (ends taken .ringState)) ∧
        ((s.cring c).active = false → exec .configureCompletionRing s = .next (ends (taken.setCRing c
          ⟨true, base, size, decide (b9 % 2 = 1), b10, h14, 0, 0, true, 0, none, (s.cring c).list⟩) .ok)))

/-- R94 to R96, R155: START RING makes a READY or STOPPED ring ACTIVE with its indices as they stand, and ends RING_STATE
for any other. STOP RING takes an ACTIVE ring to DRAINING, or to STOPPED when its context is EMPTY and no fetch read of
it is outstanding (a stale one too: log entry 11), with its buffer discarded and its fetch index back at the consumer
index; it ends OK for a DRAINING or STOPPED ring, and RING_STATE for any other. A ring number above 7 ends BAD_REQUEST. -/
def Obligations.StartAndStopMoveTheRingState : Prop :=
  ∀ (s : State) (x : Slot) (rest : List (Option Slot)), s.device = .running → s.adminCtx = .empty →
    s.admin.buffer = some x :: rest →
    let taken := { s with admin := { s.admin with consumer := (s.admin.consumer + 1) % s.admin.size, buffer := rest } }
    let ends := fun (u : State) (st : Status) => { u with
      adminCtx := .reporting ⟨st, slotByte x 0, slotHalf x 4, ⟨false, false, false⟩, none, 0, s.timeBase.setWidth 32⟩
      adminArea := { s.adminArea with list := s.adminArea.list ++ [.admin] } }
    let ring := (slotByte x 8).toNat
    ((slotByte x 0).toNat = 0x44 →
      (8 ≤ ring → exec .startRing s = .next (ends taken .badRequest)) ∧
      ∀ r : RingId, ring = r.val →
        (((s.ring r).state = .ready ∨ (s.ring r).state = .stopped) →
          exec .startRing s = .next (ends (taken.setRing r { s.ring r with state := .active }) .ok)) ∧
        ((s.ring r).state ≠ .ready → (s.ring r).state ≠ .stopped →
          exec .startRing s = .next (ends taken .ringState))) ∧
    ((slotByte x 0).toNat = 0x45 →
      (8 ≤ ring → exec .stopRing s = .next (ends taken .badRequest)) ∧
      ∀ r : RingId, ring = r.val →
        let y := s.ring r
        let idle := (s.ctx r).work = .empty ∧ ∀ p z, s.place p = some z → z.owner ≠ .fetch r
        (y.state = .active → idle → exec .stopRing s = .next
          (ends (taken.setRing r { y with state := .stopped, fetch := y.consumer, buffer := [] }) .ok)) ∧
        (y.state = .active → ¬ idle → exec .stopRing s = .next
          (ends (taken.setRing r { y with state := .draining, fetch := y.consumer, buffer := [] }) .ok)) ∧
        ((y.state = .draining ∨ y.state = .stopped) → exec .stopRing s = .next (ends taken .ok)) ∧
        ((y.state = .unconfigured ∨ y.state = .ready ∨ y.state = .faulted) →
          exec .stopRing s = .next (ends taken .ringState)))

/-- R81, R88, R97 to R99, R119, R127, R155: RESET RING ends BAD_REQUEST or RING_STATE, or takes the reset whole. The ring
becomes READY with its items kept, its generation raised, its indices 0, its buffer empty and no event pending; its ARMED
entries of the old generation end ABORTED; and its context's request ends ABORTED, a bulk transfer in RUNNING with its
progress as count and a BULK WRITE with its changed mark. The abort claim leaves the wake queue and the scan as its claims
do one after the other (ClaimsEndArmedEntriesAlone). Occupancy, cells and the arbiter are kept. -/
def Obligations.ResetRingAbortsWhatTheRingHolds : Prop :=
  ∀ (s : State) (x : Slot) (rest : List (Option Slot)), s.device = .running → s.adminCtx = .empty →
    s.admin.buffer = some x :: rest → (slotByte x 0).toNat = 0x46 →
    let taken := { s with admin := { s.admin with consumer := (s.admin.consumer + 1) % s.admin.size, buffer := rest } }
    let ends := fun (st : Status) => { taken with
      adminCtx := .reporting ⟨st, slotByte x 0, slotHalf x 4, ⟨false, false, false⟩, none, 0, s.timeBase.setWidth 32⟩
      adminArea := { s.adminArea with list := s.adminArea.list ++ [.admin] } }
    (8 ≤ (slotByte x 8).toNat → exec .resetRing s = .next (ends .badRequest)) ∧
    ∀ r : RingId, (slotByte x 8).toNat = r.val →
      let y := s.ring r
      let now : BitVec 32 := s.timeBase.setWidth 32
      let barred := ∃ p z, s.place p = some z ∧ (z.owner = .fetch r ∨ z.owner = .bulk r) ∧ z.deviceMark = true ∧
        z.ownerMark = y.generation + 1
      let hit := fun e : EntryId => (s.entry e).any (fun z => z.isArmed && z.origin = r && z.generation = y.generation)
      let es := (List.finRange 256).filter hit
      let aborted := fun (q : Request) (n : Nat) (changed : Bool) =>
        Work.reporting ⟨.aborted, q.header.kind, q.header.tag, ⟨changed, false, false⟩, none, n, now⟩
      let s1 := (taken.setRing r ⟨.ready, y.config, 0, 0, 0, y.generation + 1, []⟩).setCtx r
        { s.ctx r with event := none }
      let s2 := es.foldl (fun u e => u.claimEnd .aborted e) s1
      ((y.state = .unconfigured ∨ barred) → exec .resetRing s = .next (ends .ringState)) ∧
      (y.state ≠ .unconfigured → ¬ barred → s.HoldLaw → ∃ t, exec .resetRing s = .next t ∧
        t.scan = s2.scan ∧ t.wakeQueue = s2.wakeQueue ∧
        t.ring r = ⟨.ready, y.config, 0, 0, 0, y.generation + 1, []⟩ ∧ (∀ i, i ≠ r → t.ring i = s.ring i) ∧
        (∀ e, t.entry e = if hit e then
            (s.entry e).map (fun z => { z with state := .ending ⟨.aborted, ⟨false, false, false⟩, none, now⟩ })
          else s.entry e) ∧
        (∀ d, t.watchList d = (s.watchList d).filter (fun e => !hit e)) ∧
        t.deadlines = s.deadlines.filter (fun e => !hit e) ∧
        (t.ctx r).event = none ∧ (∀ a, readByte (t.ctx r).staging a = readByte (s.ctx r).staging a) ∧
        (∀ i, i ≠ r → t.ctx i = s.ctx i) ∧
        (∀ q d b, ((s.ctx r).work = .waitFence q ∨ (s.ctx r).work = .waitEntry q d b ∨ (s.ctx r).work = .loading q b) →
          (t.ctx r).work = aborted q 0 false) ∧
        (∀ q, (s.ctx r).work = .running q →
          (∀ f n h, q.body = .bulkRead f n h →
            (t.ctx r).work = aborted q (s.ctx r).progress false ∧ (t.ctx r).progress = 0) ∧
          (∀ f n h, q.body = .bulkWrite f n h →
            (t.ctx r).work = aborted q (s.ctx r).progress (s.ctx r).changedMark ∧ (t.ctx r).progress = 0) ∧
          ((∀ f n h, q.body ≠ .bulkRead f n h ∧ q.body ≠ .bulkWrite f n h) → (t.ctx r).work = aborted q 0 false)) ∧
        (((s.ctx r).work = .empty ∨ ∃ o, (s.ctx r).work = .reporting o) → (t.ctx r).work = (s.ctx r).work) ∧
        (let busy := (s.ctx r).work ≠ .empty ∧ ∀ o, (s.ctx r).work ≠ .reporting o
         (∀ e z, s.entry e = some z → z.origin = r → z.cring = y.config.cring) →
          (busy → (t.cring y.config.cring).list =
            (s.cring y.config.cring).list ++ es.map Source.entry ++ [.ring r]) ∧
          (¬ busy → (t.cring y.config.cring).list = (s.cring y.config.cring).list ++ es.map Source.entry)) ∧
        t.adminCtx = .reporting ⟨.ok, slotByte x 0, slotHalf x 4, ⟨false, false, false⟩, none, 0, now⟩ ∧
        t.adminArea = { s.adminArea with list := s.adminArea.list ++ [.admin] } ∧
        { t with rings := s.rings, table := s.table, watch := s.watch, deadlines := s.deadlines, scan := s.scan,
                 wakeQueue := s.wakeQueue, crings := s.crings, contexts := s.contexts, adminCtx := s.adminCtx,
                 adminArea := s.adminArea } = taken)

/-- R52, R55, R113, R131, R133, R158: RESET COMPLETION RING ends BAD_REQUEST, or RING_STATE while a request ring mapped to
the ring is ACTIVE or DRAINING; otherwise the outcomes on its list are discarded without a record, each ENDING entry on
it becoming FREE and each reporting context EMPTY, and the ring is UNCONFIGURED with its reset values. -/
def Obligations.ResetCompletionRingDiscardsItsList : Prop :=
  ∀ (s : State) (x : Slot) (rest : List (Option Slot)), s.device = .running → s.adminCtx = .empty →
    s.admin.buffer = some x :: rest → (slotByte x 0).toNat = 0x47 →
    let ends := fun (st : Status) => { s with
      admin := { s.admin with consumer := (s.admin.consumer + 1) % s.admin.size, buffer := rest }
      adminCtx := .reporting ⟨st, slotByte x 0, slotHalf x 4, ⟨false, false, false⟩, none, 0, s.timeBase.setWidth 32⟩
      adminArea := { s.adminArea with list := s.adminArea.list ++ [.admin] } }
    (4 ≤ (slotByte x 8).toNat → exec .resetCompletionRing s = .next (ends .badRequest)) ∧
    ∀ c : CRingId, (slotByte x 8).toNat = c.val →
      let busy := ∃ r, (s.ring r).config.cring = c ∧ ((s.ring r).state = .active ∨ (s.ring r).state = .draining)
      let l := (s.cring c).list
      (busy → exec .resetCompletionRing s = .next (ends .ringState)) ∧
      (¬ busy → s.HoldLaw → ∃ t, exec .resetCompletionRing s = .next t ∧
        t.cring c = ⟨false, 0, 0, false, 0, 0, 0, 0, true, 0, none, []⟩ ∧ (∀ i, i ≠ c → t.cring i = s.cring i) ∧
        (∀ e, t.entry e = if Source.entry e ∈ l then none else s.entry e) ∧
        (∀ r, t.occ r + ((s.entriesOf r).filter (fun e => decide (Source.entry e ∈ l))).length = s.occ r) ∧
        (∀ r, Source.ring r ∈ l → t.ctx r = { s.ctx r with work := .empty }) ∧
        (∀ r q d b, (s.ctx r).work = .waitEntry q d b → (∃ e, Source.entry e ∈ l) →
          t.ctx r = { s.ctx r with work := .waitEntry q d true }) ∧
        (∀ r, Source.ring r ∉ l → ((∀ e, Source.entry e ∉ l) ∨ ∀ q d b, (s.ctx r).work ≠ .waitEntry q d b) →
          t.ctx r = s.ctx r) ∧
        { t with crings := s.crings, table := s.table, occupancy := s.occupancy, contexts := s.contexts } = ends .ok)

/-- R86, R115, R135, R158: a CANCEL HOLDS taken in RUNNING completes whatever its selector. A selector that names no ring
ends BAD_REQUEST. Over one ring or all rings it ends OK, after one claim on every ARMED entry of the selected rings whose
masked tag matches, in ascending entry number, then the end of every matching hold that waits in WAIT_ENTRY, in ascending
ring number, then the opening of the fences that this leaves without an ARMED entry; its count is that of the entries and
holds. Each of them ends CANCELLED and joins its list. The wake queue and the scan are left as the claims leave them one
after the other, which ClaimsEndArmedEntriesAlone states. That the fences of several rings open in ascending ring number
is the model's choice (log entry 34). -/
def Obligations.CancelHoldsReachesEntriesAndWaitingHolds : Prop :=
  ∀ (s : State) (x : Slot) (rest : List (Option Slot)), s.device = .running → s.adminCtx = .empty →
    s.admin.buffer = some x :: rest → (slotByte x 0).toNat = 0x48 →
    let taken := { s with admin := { s.admin with consumer := (s.admin.consumer + 1) % s.admin.size, buffer := rest } }
    let ends := fun (u : State) (st : Status) (n : Nat) => { u with
      adminCtx := .reporting ⟨st, slotByte x 0, slotHalf x 4, ⟨false, false, false⟩, none, n, s.timeBase.setWidth 32⟩
      adminArea := { s.adminArea with list := s.adminArea.list ++ [.admin] } }
    let sel := (slotByte x 8).toNat
    let now : BitVec 32 := s.timeBase.setWidth 32
    let rs := (List.finRange 8).filter (fun r => sel = r.val || sel = 0xFF)
    let matching := fun tag : BitVec 16 => decide ((tag &&& slotHalf x 48) = (slotHalf x 32 &&& slotHalf x 48))
    let hit := fun e : EntryId => (s.entry e).any (fun z => z.isArmed && decide (z.origin ∈ rs) && matching z.tag)
    let waits := fun r : RingId => match (s.ctx r).work with
      | .waitEntry q _ _ => decide (r ∈ rs) && matching q.header.tag
      | _ => false
    let es := (List.finRange 256).filter hit
    let ws := (List.finRange 8).filter waits
    let claimed := es.foldl (fun u e => u.claimEnd .cancelled e) taken
    let u := ws.foldl State.cancelWaiting claimed
    (8 ≤ sel → sel ≠ 0xFF → exec .cancelHolds s = .next (ends taken .badRequest 0)) ∧
    ((sel < 8 ∨ sel = 0xFF) →
      exec .cancelHolds s = .next (ends (rs.foldl State.releaseFence u) .ok (es.length + ws.length)) ∧
      u.scan = claimed.scan ∧ u.wakeQueue = claimed.wakeQueue ∧
      (s.HoldLaw →
        (∀ e, u.entry e = if hit e then
            (s.entry e).map (fun z => { z with state := .ending ⟨.cancelled, ⟨false, false, false⟩, none, now⟩ })
          else s.entry e) ∧
        (∀ d, u.watchList d = (s.watchList d).filter (fun e => !hit e)) ∧
        u.deadlines = s.deadlines.filter (fun e => !hit e) ∧
        (∀ r q d b, (s.ctx r).work = .waitEntry q d b → waits r = true → u.ctx r = { s.ctx r with
          work := .reporting ⟨.cancelled, q.header.kind, q.header.tag, ⟨false, false, false⟩, none, 0, now⟩ }) ∧
        (∀ r, waits r = false → u.ctx r = s.ctx r) ∧
        (∀ c, u.cring c = { s.cring c with list := (s.cring c).list ++
          (es.filter (fun e => (s.entry e).any (fun z => z.cring = c))).map Source.entry ++
          (ws.filter (fun r => (s.ring r).config.cring = c)).map Source.ring }) ∧
        { u with table := s.table, watch := s.watch, deadlines := s.deadlines, scan := s.scan, wakeQueue := s.wakeQueue,
                 contexts := s.contexts, crings := s.crings } = taken))


/-! ### Operations and conditions -/

/-- R3, R8 to R11 with Table 1-1, and R5, R6 and R12 for the value and the flags: the ops but ADD, on a scoped value of
any width. READ and NONE leave it, STORE and SWAP replace it with A, and the others work bit by bit or by comparison; none
of them sets WRAP, and CSWAP alone sets MATCHED. And the scopes: an op works on the lanes of its scope, each with the matching
lanes of the operands, PAIR on each lane on its own, and leaves the other lane as it was. CHANGED compares the whole
cell, ADD alone sets WRAP, and MATCHED is that of the scope. -/
def Obligations.OpsChangeTheirScopeAsGiven : Prop :=
  (∀ (w : Nat) (v a b : BitVec w),
    opValue .read v a b = v ∧ opValue .none v a b = v ∧ opValue .store v a b = a ∧ opValue .swap v a b = a ∧
    (∀ i, (opValue .set v a b).getLsbD i = (v.getLsbD i || a.getLsbD i)) ∧
    (∀ i, (opValue .clear v a b).getLsbD i = (v.getLsbD i && !a.getLsbD i)) ∧
    (∀ i, (opValue .flip v a b).getLsbD i = (v.getLsbD i ^^ a.getLsbD i)) ∧
    (∀ i, (opValue .merge v a b).getLsbD i = if b.getLsbD i then a.getLsbD i else v.getLsbD i) ∧
    ((∀ i, a.getLsbD i → v.getLsbD i) → opValue .set v a b = v) ∧
    ((∀ i, a.getLsbD i → v.getLsbD i = false) → opValue .clear v a b = v) ∧ opValue .flip v 0 b = v ∧
    opValue .merge v a (BitVec.allOnes w) = a ∧ opValue .merge v a 0 = v ∧
    (v = b → opValue .cswap v a b = a ∧ opMatched .cswap v b = true) ∧
    (v ≠ b → opValue .cswap v a b = v ∧ opMatched .cswap v b = false) ∧
    (opValue .max v a b).toNat = max v.toNat a.toNat ∧ (opValue .min v a b).toNat = min v.toNat a.toNat ∧
    (opValue .max v a b ≠ v ↔ v.toNat < a.toNat) ∧ (opValue .min v a b ≠ v ↔ a.toNat < v.toNat) ∧
    ∀ op ∈ [Op.read, .store, .swap, .set, .clear, .flip, .merge, .cswap, .max, .min, .none], opWrap op v a = false ∧
      (op ≠ .cswap → opMatched op v b = false)) ∧
  ∀ (op : Op) (v a b : CellValue),
    let x := opValue op (lane0 v) (lane0 a) (lane0 b)
    let y := opValue op (lane1 v) (lane1 a) (lane1 b)
    (lane0 (scopedValue op .lane0 v a b) = x ∧ lane1 (scopedValue op .lane0 v a b) = lane1 v) ∧
    (lane0 (scopedValue op .lane1 v a b) = lane0 v ∧ lane1 (scopedValue op .lane1 v a b) = y) ∧
    (lane0 (scopedValue op .pair v a b) = x ∧ lane1 (scopedValue op .pair v a b) = y) ∧
    scopedValue op .whole v a b = opValue op v a b ∧
    (∀ (sc : Scope) (t : CellId), (opFlags ⟨op, sc, t, a, b⟩ v (scopedValue op sc v a b)).changed =
      match sc with
      | .lane0 => decide (x ≠ lane0 v)
      | .lane1 => decide (y ≠ lane1 v)
      | .pair => decide (x ≠ lane0 v ∨ y ≠ lane1 v)
      | .whole => decide (opValue op v a b ≠ v)) ∧
    ∀ (sc : Scope) (t : CellId) (v' : CellValue),
      (op ≠ .add → (opFlags ⟨op, sc, t, a, b⟩ v v').wrap = false) ∧
      (opFlags ⟨op, sc, t, a, b⟩ v v').matched = match sc with
        | .lane0 => opMatched op (lane0 v) (lane0 b)
        | .lane1 => opMatched op (lane1 v) (lane1 b)
        | .pair => opMatched op (lane0 v) (lane0 b) && opMatched op (lane1 v) (lane1 b)
        | .whole => opMatched op v b

/-- R7 with Table 1-3: ADD gives (v + A) modulo 2^w with A signed; WRAP is set exactly when the true sum lies outside 0 to
2^w - 1, under PAIR when either lane's does, and only when the cell changes; ADD never sets MATCHED. -/
def Obligations.AddWrapsOutsideItsScope : Prop :=
  (∀ (w : Nat) (v a b : BitVec w), 0 < w →
    let sum : Int := v.toNat + a.toInt
    ((opValue .add v a b).toNat : Int) = sum % 2 ^ w ∧
    (addWraps v a = true ↔ (sum < 0 ∨ 2 ^ w ≤ sum)) ∧ opMatched .add v b = false ∧
    (addWraps v a = true → opValue .add v a b ≠ v)) ∧
  ∀ v a b : CellValue,
    scopedWrap .add .lane0 v a = addWraps (lane0 v) (lane0 a) ∧
    scopedWrap .add .lane1 v a = addWraps (lane1 v) (lane1 a) ∧
    scopedWrap .add .pair v a = (addWraps (lane0 v) (lane0 a) || addWraps (lane1 v) (lane1 a)) ∧
    scopedWrap .add .whole v a = addWraps v a ∧
    lane0 (scopedValue .add .pair v a b) = lane0 v + lane0 a ∧
    lane1 (scopedValue .add .pair v a b) = lane1 v + lane1 a ∧ scopedValue .add .whole v a b = v + a ∧
    ∀ sc, scopedWrap .add sc v a = true → scopedValue .add sc v a b ≠ v

/-- R25, R26 with Table 2-2: a condition compares the selected part of its watched cell and of K, each taken AND the same
part of M, as unsigned numbers; bits of K outside the mask do not matter, and with an empty mask EQ and GEU always hold
and NE and LTU never do. -/
def Obligations.ConditionsCompareMaskedValues : Prop :=
  ∀ (k : Condition) (w : CellValue),
    let part := fun v : CellValue => match k.sel with
      | .lane0 => v.toNat % 2 ^ 64
      | .lane1 => v.toNat / 2 ^ 64
      | .whole => v.toNat
    let x := part (w &&& k.mask)
    let y := part (k.value &&& k.mask)
    (k.holds w = true ↔ match k.rel with
      | .eq => x = y
      | .ne => x ≠ y
      | .geu => y ≤ x
      | .ltu => x < y) ∧
    (∀ v, part (v &&& k.mask) = y → { k with value := v }.holds w = k.holds w) ∧
    (part k.mask = 0 → (k.holds w = true ↔ (k.rel = .eq ∨ k.rel = .geu)))

/-! ### Laws of the part, kept by every step -/

/-- The reset state meets every law below, lists no byte of the store, and every cell of it reads 0 (R1, R57, R168). -/
def Obligations.ResetMeetsTheLaws : Prop :=
  State.reset.StoreLaw ∧ State.reset.RunLaw ∧ State.reset.HoldLaw ∧ State.reset.QuotaLaw ∧ State.reset.WakeLaw ∧
  State.reset.NoLostWakeup ∧ State.reset.RingLaw ∧ State.reset.CRingLaw ∧ State.reset.QueueLaw ∧ State.reset.mem = [] ∧
  ∀ c, readCell State.reset.mem c = 0

/-- R1, R118 (model: log entry 20): the Cell Store and the staging buffers keep their canonical form, and only bytes of
the 4096 cells are ever written. -/
def Obligations.StepsKeepTheStores : Prop :=
  ∀ s t : State, s.StoreLaw → step s = .next t → t.StoreLaw

/-- R46, R56, R59, R77, R134: an ARMED entry is on the watch list of its watched cell and on the deadline list exactly
when its deadline is finite; an ENDING entry and a reporting context are on exactly one outcome list; a FREE entry is on
none; and each ring's occupancy is the number of its entries. -/
def Obligations.StepsKeepTheHoldTableMemberships : Prop :=
  ∀ s t : State, s.HoldLaw → step s = .next t → t.HoldLaw

/-- R59: the occupancy of a ring never exceeds its quota. -/
def Obligations.StepsKeepOccupancyWithinQuota : Prop :=
  ∀ s t : State, s.QuotaLaw → step s = .next t → t.QuotaLaw

/-- R61 to R63, R66: the wake queue never holds a cell twice, holds only cells with watchers, is empty while the scan is
IDLE, and the position is an entry of the current cell's list. -/
def Obligations.StepsKeepTheWakeQueue : Prop :=
  ∀ s t : State, s.HoldLaw → s.WakeLaw → step s = .next t → t.WakeLaw

/-- R72: no wake-up is lost. Whenever an ARMED entry's condition holds on the present value of its watched cell, the cell
is in the wake queue, or is under scan with the entry still at or behind the position. -/
def Obligations.NoWakeUpIsLost : Prop :=
  ∀ s t : State, s.StoreLaw → s.HoldLaw → s.WakeLaw → s.NoLostWakeup → step s = .next t → t.NoLostWakeup

/-- R71: a cascade left to itself ends: within 131,072 scan steps the Wake Scan is IDLE and the wake queue empty. -/
def Obligations.EveryCascadeEnds : Prop :=
  ∀ s : State, s.device = .running → s.HoldLaw → s.WakeLaw →
    (State.scanSteps 131072 s).scan = .idle ∧ (State.scanSteps 131072 s).wakeQueue = []

/-- R92, R96, R102: every request ring is blank or configured with items in range; its indices lie in the ring, its fetch
index stands at most four slots past its consumer index and never beyond the producer index, and its buffer is empty
unless it is ACTIVE. -/
def Obligations.StepsKeepTheRingIndices : Prop :=
  ∀ s t : State, s.RingLaw → step s = .next t → t.RingLaw

/-- R131, R137, R145, R146, R148: every completion ring is blank or ACTIVE with items and indices in range, its
unsignalled count below its threshold, 0 with interrupts off, and its timer running exactly while the count and the
holdoff are above 0. -/
def Obligations.StepsKeepTheCompletionRings : Prop :=
  ∀ s t : State, s.CRingLaw → step s = .next t → t.CRingLaw

/-- R174, R176: the posted-write queue never holds more than 16 writes, and no message stands at its head while
message-signalled interrupts are disabled (log entry 38). -/
def Obligations.StepsKeepThePostedWriteQueue : Prop :=
  ∀ s t : State, s.QueueLaw → step s = .next t → t.QueueLaw

/-! ### Rules of the whole part -/

/-- R15, R22, R163: no command but POWER_ON_RESET changes a byte outside the one cell that its cell-port operation
targets, and a command without a cell-port operation changes no cell. -/
def Obligations.CellsChangeOnlyAtTheirTarget : Prop :=
  ∀ (s t : State) (c : Instr), Memory.wf s.mem = true → c ≠ .powerOnReset → exec c s = .next t → ∀ a : Nat,
    (∀ n, s.writtenCell c = some n → a < 16 * n ∨ 16 * n + 16 ≤ a) → readByte t.mem a = readByte s.mem a

/-- R73, R82, R117, R149, R159, R163: in HALTED no command but a reset changes a cell, an entry, a list, the wake queue,
the scan, a ring, a context, a completion ring or the device state; only the clock, the reads, the registers FAULT and
the snapshot, configuration space and the posted writes move. -/
def Obligations.HaltedFreezesThePart : Prop :=
  ∀ (s t : State) (c : Instr), s.device = .halted → c.wellFormed = true → c ≠ .powerOnReset →
    (∀ b, c ≠ .linkReset b) → (∀ w b, c ≠ .controlReset w b) → exec c s = .next t →
    { t with timeBase := s.timeBase, timeSnapshot := s.timeSnapshot, fault := s.fault, cfg := s.cfg,
             places := s.places, postq := s.postq, held := s.held, replies := s.replies, link := s.link } = s

/-- R53, R54, R76: an ENDING entry keeps its result until a record write, a completion ring reset or a device reset frees
it; and an ARMED entry ends TIMEOUT in RUNNING alone, and only once the time base has reached its deadline. -/
def Obligations.OutcomesAreFixedAndTimeoutsNeverEarly : Prop :=
  ∀ (s t : State) (c : Instr) (e : EntryId) (z : HoldEntry), s.entry e = some z → exec c s = .next t →
    (∀ res, z.state = .ending res → t.entry e = some z ∨ (t.entry e = none ∧
      ((∃ l, c = .completionRecordWrite l) ∨ c = .resetCompletionRing ∨ c = .powerOnReset ∨ c = .resetValuesTaken))) ∧
    (z.isArmed = true → ∀ z' res, t.entry e = some z' → z'.state = .ending res → res.status = .timeout →
      s.device = .running ∧ ∃ d, z.deadline = some d ∧ (s.timeBase.toNat + 2 ^ 48 - d.toNat) % 2 ^ 48 < 2 ^ 47)
end Statements
end

