-- ==== Sys2Proof/Laws/Memory.lean ====
section
/-! SUPPORT. The sparse maps of the Cell Store, the staging buffers and the watch lists: every write keeps the canonical
form, a read after a write to the same place gives what was written, and every other place is left alone. -/

namespace Sys2Proof.Machine

variable {β : Type} [DecidableEq β]

/-! ### The canonical form -/

@[simp] theorem sparseGet_nil {β : Type} (d : β) (a : Nat) : sparseGet d [] a = d := rfl

theorem sparseGet_cons {β : Type} (d : β) (k : Nat) (v : β) (rest : List (Nat × β)) (a : Nat) :
    sparseGet d ((k, v) :: rest) a = if k = a then v else sparseGet d rest a := rfl

theorem sparseWfFrom_cons (d : β) (lo : Option Nat) (k : Nat) (v : β) (rest : List (Nat × β)) :
    sparseWfFrom d lo ((k, v) :: rest) = true ↔
      (∀ x ∈ lo, x < k) ∧ v ≠ d ∧ sparseWfFrom d (some k) rest = true := by
  cases lo <;> simp [sparseWfFrom, and_assoc]

/-- A lower bound can be lowered. -/
theorem sparseWfFrom_lower (d : β) {lo lo' : Option Nat} (m : List (Nat × β))
    (h : sparseWfFrom d lo m = true) (hl : ∀ x ∈ lo', ∃ y ∈ lo, x ≤ y) : sparseWfFrom d lo' m = true := by
  cases m with
  | nil => rfl
  | cons p rest =>
    obtain ⟨k, v⟩ := p
    rw [sparseWfFrom_cons] at h ⊢
    refine ⟨fun x hx => ?_, h.2⟩
    obtain ⟨y, hy, hxy⟩ := hl x hx
    exact Nat.lt_of_le_of_lt hxy (h.1 y hy)

theorem sparseWfFrom_none (d : β) {lo : Option Nat} (m : List (Nat × β)) (h : sparseWfFrom d lo m = true) :
    sparseWf d m = true := sparseWfFrom_lower d m h (by simp)

/-- No key below or at the bound is listed. -/
theorem sparseGet_of_le (d : β) (lo : Nat) (m : List (Nat × β)) (h : sparseWfFrom d (some lo) m = true) (a : Nat)
    (ha : a ≤ lo) : sparseGet d m a = d := by
  induction m generalizing lo with
  | nil => rfl
  | cons p rest ih =>
    obtain ⟨k, v⟩ := p
    rw [sparseWfFrom_cons] at h
    have hk := h.1 lo (by simp)
    rw [sparseGet_cons, if_neg (by omega)]
    exact ih k h.2.2 (by omega)

/-- A write above the bound keeps the canonical form above that bound. -/
theorem sparseWfFrom_put (d : β) (lo : Option Nat) (m : List (Nat × β)) (a : Nat) (b : β)
    (h : sparseWfFrom d lo m = true) (ha : ∀ x ∈ lo, x < a) : sparseWfFrom d lo (sparsePut d m a b) = true := by
  induction m generalizing lo with
  | nil =>
    unfold sparsePut
    split
    · rfl
    · next hb => exact (sparseWfFrom_cons d lo a b []).2 ⟨ha, hb, rfl⟩
  | cons p rest ih =>
    obtain ⟨k, v⟩ := p
    have h' := (sparseWfFrom_cons d lo k v rest).1 h
    unfold sparsePut
    split
    · next hak =>
      split
      · exact h
      · next hb =>
        exact (sparseWfFrom_cons ..).2 ⟨ha, hb, (sparseWfFrom_cons ..).2 ⟨by simpa using hak, h'.2⟩⟩
    · split
      · next hak =>
        subst hak
        split
        · exact sparseWfFrom_lower d rest h'.2.2 fun x hx => ⟨a, rfl, Nat.le_of_lt (ha x hx)⟩
        · next hb => exact (sparseWfFrom_cons ..).2 ⟨ha, hb, h'.2.2⟩
      · next h1 h2 => exact (sparseWfFrom_cons ..).2 ⟨h'.1, h'.2.1, ih (some k) h'.2.2 (by simp; omega)⟩

/-- A write keeps the canonical form. -/
theorem sparseWf_put (d : β) (m : List (Nat × β)) (a : Nat) (b : β) (h : sparseWf d m = true) :
    sparseWf d (sparsePut d m a b) = true := sparseWfFrom_put d none m a b h (by simp)

/-- A read after a write to the same key. -/
theorem sparseGet_put_self (d : β) (lo : Option Nat) (m : List (Nat × β)) (a : Nat) (b : β)
    (h : sparseWfFrom d lo m = true) : sparseGet d (sparsePut d m a b) a = b := by
  induction m generalizing lo with
  | nil =>
    unfold sparsePut
    split
    · next hb => simp [hb]
    · simp [sparseGet_cons]
  | cons p rest ih =>
    obtain ⟨k, v⟩ := p
    have h' := (sparseWfFrom_cons d lo k v rest).1 h
    unfold sparsePut
    split
    · next hak =>
      split
      · next hb =>
        rw [sparseGet_cons, if_neg (by omega), hb]
        exact sparseGet_of_le d k rest h'.2.2 a (by omega)
      · simp [sparseGet_cons]
    · split
      · next hak =>
        subst hak
        split
        · next hb => rw [hb]; exact sparseGet_of_le d a rest h'.2.2 a (by omega)
        · simp [sparseGet_cons]
      · next h1 h2 => rw [sparseGet_cons, if_neg (by omega)]; exact ih (some k) h'.2.2

/-- A read after a write to another key. -/
theorem sparseGet_put_ne (d : β) (m : List (Nat × β)) {a i : Nat} (b : β) (h : a ≠ i) :
    sparseGet d (sparsePut d m a b) i = sparseGet d m i := by
  induction m with
  | nil =>
    unfold sparsePut
    split
    · rfl
    · simp [sparseGet_cons, h]
  | cons p rest ih =>
    obtain ⟨k, v⟩ := p
    unfold sparsePut
    split
    · split
      · rfl
      · simp [sparseGet_cons, h]
    · split
      · next hak =>
        subst hak
        split <;> simp [sparseGet_cons, h]
      · simp [sparseGet_cons, ih]

/-- Two maps in canonical form that read the same are the same list. -/
theorem sparse_ext (d : β) (lo : Option Nat) (m n : List (Nat × β)) (hm : sparseWfFrom d lo m = true)
    (hn : sparseWfFrom d lo n = true) (h : ∀ a, sparseGet d m a = sparseGet d n a) : m = n := by
  induction m generalizing lo n with
  | nil =>
    cases n with
    | nil => rfl
    | cons q rest =>
      obtain ⟨k, v⟩ := q
      have := h k
      simp [sparseGet_cons] at this
      exact absurd this.symm ((sparseWfFrom_cons ..).1 hn).2.1
  | cons p rest ih =>
    obtain ⟨k, v⟩ := p
    have hm' := (sparseWfFrom_cons ..).1 hm
    cases n with
    | nil =>
      have := h k
      simp [sparseGet_cons] at this
      exact absurd this hm'.2.1
    | cons q rest' =>
      obtain ⟨k', v'⟩ := q
      have hn' := (sparseWfFrom_cons ..).1 hn
      have hkk : k = k' := by
        rcases Nat.lt_trichotomy k k' with hlt | heq | hgt
        · have := h k
          rw [sparseGet_cons, if_pos rfl, sparseGet_cons, if_neg (by omega),
            sparseGet_of_le d k' rest' hn'.2.2 k (by omega)] at this
          exact absurd this hm'.2.1
        · exact heq
        · have := h k'
          rw [sparseGet_cons, if_neg (by omega), sparseGet_cons, if_pos rfl,
            sparseGet_of_le d k rest hm'.2.2 k' (by omega)] at this
          exact absurd this.symm hn'.2.1
      subst hkk
      have hv : v = v' := by simpa [sparseGet_cons] using h k
      subst hv
      refine congrArg _ (ih (some k) rest' hm'.2.2 hn'.2.2 fun a => ?_)
      by_cases hak : k = a
      · subst hak
        rw [sparseGet_of_le d k rest hm'.2.2 k (by omega), sparseGet_of_le d k rest' hn'.2.2 k (by omega)]
      · simpa [sparseGet_cons, hak] using h a

/-! ### Bytes -/

theorem readByte_writeByte_self (m : List Host.Cell) (a : Nat) (b : Byte) (h : Memory.wf m = true) :
    readByte (writeByte m a b) a = b := sparseGet_put_self 0 none m a b h

theorem readByte_writeByte_ne (m : List Host.Cell) {a i : Nat} (b : Byte) (h : a ≠ i) :
    readByte (writeByte m a b) i = readByte m i := sparseGet_put_ne 0 m b h

/-- A byte write keeps the canonical form. -/
theorem wf_writeByte (m : List Host.Cell) (a : Nat) (b : Byte) (h : Memory.wf m = true) :
    Memory.wf (writeByte m a b) = true := sparseWf_put 0 m a b h

/-- Equal memories are equal data. -/
theorem memory_ext (m n : List Host.Cell) (hm : Memory.wf m = true) (hn : Memory.wf n = true)
    (h : ∀ a, readByte m a = readByte n a) : m = n := sparse_ext 0 none m n hm hn h

/-! ### Cells -/

/-- The bytes at offsets below `n` of a cell are written, and every other byte is left alone. -/
theorem readByte_writeRange (m : List Host.Cell) (c : Nat) (v : CellValue) (n : Nat) (h : Memory.wf m = true) :
    Memory.wf ((List.range n).foldl (fun m k => writeByte m (16 * c + k) (cellByte v k)) m) = true ∧
    ∀ a, readByte ((List.range n).foldl (fun m k => writeByte m (16 * c + k) (cellByte v k)) m) a =
      if 16 * c ≤ a ∧ a < 16 * c + n then cellByte v (a - 16 * c) else readByte m a := by
  induction n with
  | zero => exact ⟨h, fun a => by rw [if_neg (by omega)]; rfl⟩
  | succ n ih =>
    simp only [List.range_succ, List.foldl_append, List.foldl_cons, List.foldl_nil]
    refine ⟨wf_writeByte _ _ _ ih.1, fun a => ?_⟩
    by_cases ha : 16 * c + n = a
    · subst ha
      rw [readByte_writeByte_self _ _ _ ih.1, if_pos (by omega), Nat.add_sub_cancel_left]
    · rw [readByte_writeByte_ne _ _ ha, ih.2 a]
      by_cases hb : 16 * c ≤ a ∧ a < 16 * c + n
      · rw [if_pos hb, if_pos (by omega)]
      · rw [if_neg hb, if_neg (by omega)]

/-- A cell write keeps the canonical form. -/
theorem wf_writeCell (m : List Host.Cell) (c : Nat) (v : CellValue) (h : Memory.wf m = true) :
    Memory.wf (writeCell m c v) = true := (readByte_writeRange m c v 16 h).1

/-- A cell write stores the 16 bytes of its cell and leaves every other byte alone (R2, R15). -/
theorem readByte_writeCell (m : List Host.Cell) (c : Nat) (v : CellValue) (h : Memory.wf m = true) (a : Nat) :
    readByte (writeCell m c v) a =
      if 16 * c ≤ a ∧ a < 16 * c + 16 then cellByte v (a - 16 * c) else readByte m a :=
  (readByte_writeRange m c v 16 h).2 a

/-- Bytes packed into a cell value, the first one lowest (R2). -/
def packBytes (l : List Byte) : CellValue := l.foldr (fun (b : Byte) (acc : CellValue) => acc <<< 8 ||| b.setWidth 128) 0

/-- A bit of packed bytes. -/
theorem getLsbD_packBytes (l : List Byte) (i : Nat) (hi : i < 128) :
    (packBytes l).getLsbD i =
      (l.getD (i / 8) 0).getLsbD (i % 8) := by
  induction l generalizing i with
  | nil => simp [packBytes]
  | cons b rest ih =>
    simp only [packBytes, List.foldr_cons, BitVec.getLsbD_or, BitVec.getLsbD_shiftLeft, BitVec.getLsbD_setWidth, hi,
      decide_true, Bool.true_and]
    by_cases h8 : i < 8
    · have h0 : i / 8 = 0 := by omega
      have hm : i % 8 = i := by omega
      simp [h8, h0, hm]
    · have hd : i / 8 = (i - 8) / 8 + 1 := by omega
      have hm : i % 8 = (i - 8) % 8 := by omega
      have hb : b.getLsbD i = false := BitVec.getLsbD_of_ge b i (by omega)
      simp only [h8, decide_false, Bool.not_false, Bool.true_and, hb, Bool.or_false]
      have := ih (i - 8) (by omega)
      rw [packBytes] at this
      rw [this, hd, hm]
      simp

/-- A cell reads as the packing of its 16 bytes (R2). -/
theorem readCell_eq_pack (m : List Host.Cell) (c : Nat) :
    readCell m c = packBytes ((List.range 16).map (fun k => readByte m (16 * c + k))) := by
  simp only [readCell, packBytes, List.foldr_map]

/-- A bit of a cell is a bit of its byte (R2). -/
theorem getLsbD_readCell (m : List Host.Cell) (c i : Nat) (hi : i < 128) :
    (readCell m c).getLsbD i = (readByte m (16 * c + i / 8)).getLsbD (i % 8) := by
  rw [readCell_eq_pack, getLsbD_packBytes _ _ hi]
  have : i / 8 < 16 := by omega
  simp [List.getD_eq_getElem?_getD, this]

/-- Byte `k` of a cell stands at address `16 c + k` (R2). -/
theorem cellByte_readCell (m : List Host.Cell) (c k : Nat) (hk : k < 16) :
    cellByte (readCell m c) k = readByte m (16 * c + k) := by
  refine BitVec.eq_of_getLsbD_eq fun i hi => ?_
  have h1 : (8 * k + i) / 8 = k := by omega
  have h2 : (8 * k + i) % 8 = i := by omega
  rw [cellByte, BitVec.getLsbD_extractLsb', getLsbD_readCell m c _ (by omega), h1, h2]
  simp [hi]

/-- Cells with the same bytes hold the same value. -/
theorem readCell_congr (m n : List Host.Cell) (c : Nat) (h : ∀ k < 16, readByte m (16 * c + k) = readByte n (16 * c + k)) :
    readCell m c = readCell n c := by
  refine BitVec.eq_of_getLsbD_eq fun i hi => ?_
  rw [getLsbD_readCell m c i hi, getLsbD_readCell n c i hi, h (i / 8) (by omega)]

/-- A cell reads back what was written to it. -/
theorem readCell_writeCell_self (m : List Host.Cell) (c : Nat) (v : CellValue) (h : Memory.wf m = true) :
    readCell (writeCell m c v) c = v := by
  refine BitVec.eq_of_getLsbD_eq fun i hi => ?_
  have hlt : i / 8 < 16 := by omega
  rw [getLsbD_readCell _ c i hi, readByte_writeCell m c v h, if_pos (by omega), Nat.add_sub_cancel_left, cellByte,
    BitVec.getLsbD_extractLsb']
  have hm : i % 8 < 8 := by omega
  have he : 8 * (i / 8) + i % 8 = i := by omega
  simp [hm, he]

/-- A write of one cell leaves every other cell alone. -/
theorem readCell_writeCell_ne (m : List Host.Cell) {c d : Nat} (v : CellValue) (h : Memory.wf m = true) (hne : c ≠ d) :
    readCell (writeCell m c v) d = readCell m d := by
  refine readCell_congr _ _ _ fun k hk => ?_
  rw [readByte_writeCell m c v h, if_neg (by omega)]

/-- Writing what a cell holds changes nothing. -/
theorem writeCell_readCell (m : List Host.Cell) (c : Nat) (h : Memory.wf m = true) :
    writeCell m c (readCell m c) = m := by
  refine memory_ext _ _ (wf_writeCell m c _ h) h fun a => ?_
  rw [readByte_writeCell m c _ h]
  split
  · next ha => rw [cellByte_readCell m c _ (by omega), Nat.add_sub_cancel' ha.1]
  · rfl

/-- Everything a store can do: the store holds the value, and the flag says whether it held another (R13). -/
theorem storeCell_eq (m : List Host.Cell) (c : Nat) (v : CellValue) (h : Memory.wf m = true) :
    storeCell m c v = (writeCell m c v, decide (readCell m c ≠ v)) := by
  unfold storeCell
  split
  · next hv => subst hv; simp [writeCell_readCell m c h]
  · next hv => simp [hv]

theorem wf_storeCell (m : List Host.Cell) (c : Nat) (v : CellValue) (h : Memory.wf m = true) :
    Memory.wf (storeCell m c v).1 = true := by
  rw [storeCell_eq m c v h]
  dsimp only
  exact wf_writeCell m c v h

/-- Consecutive cell writes keep the canonical form. -/
theorem wf_writeCells (m : List Host.Cell) (c : Nat) (vs : List CellValue) (h : Memory.wf m = true) :
    Memory.wf (writeCells m c vs) = true := by
  induction vs generalizing m c with
  | nil => exact h
  | cons v vs ih => exact ih _ _ (wf_writeCell m c v h)

/-- Cells outside a run of writes are left alone. -/
theorem readCell_writeCells_of_outside (m : List Host.Cell) (c d : Nat) (vs : List CellValue) (h : Memory.wf m = true)
    (hd : d < c ∨ c + vs.length ≤ d) : readCell (writeCells m c vs) d = readCell m d := by
  induction vs generalizing m c with
  | nil => rfl
  | cons v vs ih =>
    simp only [List.length_cons] at hd
    rw [writeCells, ih _ _ (wf_writeCell m c v h) (by omega), readCell_writeCell_ne m v h (by omega)]

/-- A run of writes reads back in order. -/
theorem readCell_writeCells (m : List Host.Cell) (c : Nat) (vs : List CellValue) (h : Memory.wf m = true) (i : Nat)
    (hi : i < vs.length) : readCell (writeCells m c vs) (c + i) = vs[i] := by
  induction vs generalizing m c i with
  | nil => simp at hi
  | cons v vs ih =>
    rw [writeCells]
    cases i with
    | zero =>
      rw [readCell_writeCells_of_outside _ _ _ _ (wf_writeCell m c v h) (by omega), Nat.add_zero,
        readCell_writeCell_self m c v h]
      rfl
    | succ i =>
      have := ih (writeCell m c v) (c + 1) (wf_writeCell m c v h) i (by simpa using hi)
      rw [show c + (i + 1) = c + 1 + i by omega, this]
      rfl

/-! ### Actions -/

/-- NONE makes no access (R12). -/
theorem performAction_none (m : List Host.Cell) (act : Action) (h : act.op = .none) :
    performAction m act = ⟨m, .none, 0⟩ := by
  simp [performAction, h]

/-- Everything a performed op does: the target holds the new value, the flags and the old value come back. -/
theorem performAction_eq (m : List Host.Cell) (act : Action) (h : act.op ≠ .none) (hm : Memory.wf m = true) :
    performAction m act =
      ⟨writeCell m act.target (scopedValue act.op act.scope (readCell m act.target) act.a act.b),
        opFlags act (readCell m act.target) (scopedValue act.op act.scope (readCell m act.target) act.a act.b),
        readCell m act.target⟩ := by
  simp only [performAction, h, if_false, storeCell_eq m _ _ hm]

theorem wf_performAction (m : List Host.Cell) (act : Action) (hm : Memory.wf m = true) :
    Memory.wf (performAction m act).mem = true := by
  unfold performAction
  split
  · exact hm
  · exact wf_storeCell _ _ _ hm

/-- An action leaves every byte outside its target cell alone (R15). -/
theorem readByte_performAction (m : List Host.Cell) (act : Action) (hm : Memory.wf m = true) (a : Nat)
    (ha : a / 16 ≠ act.target.val) : readByte (performAction m act).mem a = readByte m a := by
  by_cases h : act.op = .none
  · rw [performAction_none m act h]
  · rw [performAction_eq m act h hm, readByte_writeCell m _ _ hm, if_neg (by omega)]

/-- CHANGED tells whether the target cell's value changed (R13). -/
theorem performAction_changed (m : List Host.Cell) (act : Action) (hm : Memory.wf m = true) :
    (performAction m act).flags.changed = decide (readCell (performAction m act).mem act.target ≠ readCell m act.target) := by
  by_cases h : act.op = .none
  · simp [performAction_none m act h, Flags.none]
  · rw [performAction_eq m act h hm]
    simp only [opFlags, readCell_writeCell_self m _ _ hm]

/-! ### Reset and watch lists -/

/-- The Cell Store of the reset state is in canonical form. -/
theorem wf_reset : Memory.wf State.reset.mem = true := rfl

/-- Every byte of every cell is 0 after a power-on reset (R1). -/
theorem readByte_reset (a : Nat) : readByte State.reset.mem a = 0 := rfl

/-- The watch list of a cell after it was replaced, in canonical form (R56). -/
theorem watchList_setWatch_self (s : State) (c : CellId) (l : List EntryId) (h : sparseWf [] s.watch = true) :
    (s.setWatch c l).watchList c = l := sparseGet_put_self [] none s.watch c.val l h

theorem watchList_setWatch_ne (s : State) {c d : CellId} (l : List EntryId) (h : c ≠ d) :
    (s.setWatch c l).watchList d = s.watchList d := sparseGet_put_ne [] s.watch l (Fin.val_ne_of_ne h)

theorem watchForm_setWatch (s : State) (c : CellId) (l : List EntryId) (h : sparseWf [] s.watch = true) :
    sparseWf [] (s.setWatch c l).watch = true := sparseWf_put [] s.watch c.val l h

end Sys2Proof.Machine
end

