-- ==== Sys2Proof/Laws/State.lean ====
section
/-! SUPPORT. One lemma per field per update of the state, true by definition, and what each accessor reads after each
update. The operations of Machine/Ops.lean build every meaning from these updates. -/

namespace Sys2Proof.Machine

/-! ### setRing -/

@[simp] theorem State.setRing_pending (s : State) (r : RingId) (x : RequestRing) : (s.setRing r x).pending = s.pending := rfl

@[simp] theorem State.setRing_device (s : State) (r : RingId) (x : RequestRing) : (s.setRing r x).device = s.device := rfl

@[simp] theorem State.setRing_fault (s : State) (r : RingId) (x : RequestRing) : (s.setRing r x).fault = s.fault := rfl

@[simp] theorem State.setRing_adminBaseLow (s : State) (r : RingId) (x : RequestRing) : (s.setRing r x).adminBaseLow = s.adminBaseLow := rfl

@[simp] theorem State.setRing_adminBaseHigh (s : State) (r : RingId) (x : RequestRing) : (s.setRing r x).adminBaseHigh = s.adminBaseHigh := rfl

@[simp] theorem State.setRing_adminSize (s : State) (r : RingId) (x : RequestRing) : (s.setRing r x).adminSize = s.adminSize := rfl

@[simp] theorem State.setRing_timeSnapshot (s : State) (r : RingId) (x : RequestRing) : (s.setRing r x).timeSnapshot = s.timeSnapshot := rfl

@[simp] theorem State.setRing_cfg (s : State) (r : RingId) (x : RequestRing) : (s.setRing r x).cfg = s.cfg := rfl

@[simp] theorem State.setRing_timeBase (s : State) (r : RingId) (x : RequestRing) : (s.setRing r x).timeBase = s.timeBase := rfl

@[simp] theorem State.setRing_deadlines (s : State) (r : RingId) (x : RequestRing) : (s.setRing r x).deadlines = s.deadlines := rfl

@[simp] theorem State.setRing_mem (s : State) (r : RingId) (x : RequestRing) : (s.setRing r x).mem = s.mem := rfl

@[simp] theorem State.setRing_arbPointer (s : State) (r : RingId) (x : RequestRing) : (s.setRing r x).arbPointer = s.arbPointer := rfl

@[simp] theorem State.setRing_arbCredit (s : State) (r : RingId) (x : RequestRing) : (s.setRing r x).arbCredit = s.arbCredit := rfl

@[simp] theorem State.setRing_portOp (s : State) (r : RingId) (x : RequestRing) : (s.setRing r x).portOp = s.portOp := rfl

@[simp] theorem State.setRing_table (s : State) (r : RingId) (x : RequestRing) : (s.setRing r x).table = s.table := rfl

@[simp] theorem State.setRing_watch (s : State) (r : RingId) (x : RequestRing) : (s.setRing r x).watch = s.watch := rfl

@[simp] theorem State.setRing_occupancy (s : State) (r : RingId) (x : RequestRing) : (s.setRing r x).occupancy = s.occupancy := rfl

@[simp] theorem State.setRing_wakeQueue (s : State) (r : RingId) (x : RequestRing) : (s.setRing r x).wakeQueue = s.wakeQueue := rfl

@[simp] theorem State.setRing_scan (s : State) (r : RingId) (x : RequestRing) : (s.setRing r x).scan = s.scan := rfl

@[simp] theorem State.setRing_rings (s : State) (r : RingId) (x : RequestRing) : (s.setRing r x).rings = s.rings.set r x := rfl

@[simp] theorem State.setRing_contexts (s : State) (r : RingId) (x : RequestRing) : (s.setRing r x).contexts = s.contexts := rfl

@[simp] theorem State.setRing_lastChosen (s : State) (r : RingId) (x : RequestRing) : (s.setRing r x).lastChosen = s.lastChosen := rfl

@[simp] theorem State.setRing_crings (s : State) (r : RingId) (x : RequestRing) : (s.setRing r x).crings = s.crings := rfl

@[simp] theorem State.setRing_admin (s : State) (r : RingId) (x : RequestRing) : (s.setRing r x).admin = s.admin := rfl

@[simp] theorem State.setRing_adminCtx (s : State) (r : RingId) (x : RequestRing) : (s.setRing r x).adminCtx = s.adminCtx := rfl

@[simp] theorem State.setRing_adminArea (s : State) (r : RingId) (x : RequestRing) : (s.setRing r x).adminArea = s.adminArea := rfl

@[simp] theorem State.setRing_places (s : State) (r : RingId) (x : RequestRing) : (s.setRing r x).places = s.places := rfl

@[simp] theorem State.setRing_postq (s : State) (r : RingId) (x : RequestRing) : (s.setRing r x).postq = s.postq := rfl

@[simp] theorem State.setRing_held (s : State) (r : RingId) (x : RequestRing) : (s.setRing r x).held = s.held := rfl

@[simp] theorem State.setRing_replies (s : State) (r : RingId) (x : RequestRing) : (s.setRing r x).replies = s.replies := rfl

@[simp] theorem State.setRing_link (s : State) (r : RingId) (x : RequestRing) : (s.setRing r x).link = s.link := rfl

@[simp] theorem State.setRing_ctx (s : State) (r : RingId) (x : RequestRing) (i : RingId) : (s.setRing r x).ctx i = s.ctx i := rfl

@[simp] theorem State.setRing_cring (s : State) (r : RingId) (x : RequestRing) (i : CRingId) : (s.setRing r x).cring i = s.cring i := rfl

@[simp] theorem State.setRing_entry (s : State) (r : RingId) (x : RequestRing) (i : EntryId) : (s.setRing r x).entry i = s.entry i := rfl

@[simp] theorem State.setRing_occ (s : State) (r : RingId) (x : RequestRing) (i : RingId) : (s.setRing r x).occ i = s.occ i := rfl

@[simp] theorem State.setRing_place (s : State) (r : RingId) (x : RequestRing) (i : PlaceId) : (s.setRing r x).place i = s.place i := rfl

@[simp] theorem State.setRing_watchList (s : State) (r : RingId) (x : RequestRing) (i : CellId) : (s.setRing r x).watchList i = s.watchList i := rfl

@[simp] theorem State.setRing_now32 (s : State) (r : RingId) (x : RequestRing)  : (s.setRing r x).now32 = s.now32 := rfl

@[simp] theorem State.setRing_hasRoom (s : State) (r : RingId) (x : RequestRing)  : (s.setRing r x).hasRoom = s.hasRoom := rfl

/-! ### setCtx -/

@[simp] theorem State.setCtx_pending (s : State) (r : RingId) (x : RingContext) : (s.setCtx r x).pending = s.pending := rfl

@[simp] theorem State.setCtx_device (s : State) (r : RingId) (x : RingContext) : (s.setCtx r x).device = s.device := rfl

@[simp] theorem State.setCtx_fault (s : State) (r : RingId) (x : RingContext) : (s.setCtx r x).fault = s.fault := rfl

@[simp] theorem State.setCtx_adminBaseLow (s : State) (r : RingId) (x : RingContext) : (s.setCtx r x).adminBaseLow = s.adminBaseLow := rfl

@[simp] theorem State.setCtx_adminBaseHigh (s : State) (r : RingId) (x : RingContext) : (s.setCtx r x).adminBaseHigh = s.adminBaseHigh := rfl

@[simp] theorem State.setCtx_adminSize (s : State) (r : RingId) (x : RingContext) : (s.setCtx r x).adminSize = s.adminSize := rfl

@[simp] theorem State.setCtx_timeSnapshot (s : State) (r : RingId) (x : RingContext) : (s.setCtx r x).timeSnapshot = s.timeSnapshot := rfl

@[simp] theorem State.setCtx_cfg (s : State) (r : RingId) (x : RingContext) : (s.setCtx r x).cfg = s.cfg := rfl

@[simp] theorem State.setCtx_timeBase (s : State) (r : RingId) (x : RingContext) : (s.setCtx r x).timeBase = s.timeBase := rfl

@[simp] theorem State.setCtx_deadlines (s : State) (r : RingId) (x : RingContext) : (s.setCtx r x).deadlines = s.deadlines := rfl

@[simp] theorem State.setCtx_mem (s : State) (r : RingId) (x : RingContext) : (s.setCtx r x).mem = s.mem := rfl

@[simp] theorem State.setCtx_arbPointer (s : State) (r : RingId) (x : RingContext) : (s.setCtx r x).arbPointer = s.arbPointer := rfl

@[simp] theorem State.setCtx_arbCredit (s : State) (r : RingId) (x : RingContext) : (s.setCtx r x).arbCredit = s.arbCredit := rfl

@[simp] theorem State.setCtx_portOp (s : State) (r : RingId) (x : RingContext) : (s.setCtx r x).portOp = s.portOp := rfl

@[simp] theorem State.setCtx_table (s : State) (r : RingId) (x : RingContext) : (s.setCtx r x).table = s.table := rfl

@[simp] theorem State.setCtx_watch (s : State) (r : RingId) (x : RingContext) : (s.setCtx r x).watch = s.watch := rfl

@[simp] theorem State.setCtx_occupancy (s : State) (r : RingId) (x : RingContext) : (s.setCtx r x).occupancy = s.occupancy := rfl

@[simp] theorem State.setCtx_wakeQueue (s : State) (r : RingId) (x : RingContext) : (s.setCtx r x).wakeQueue = s.wakeQueue := rfl

@[simp] theorem State.setCtx_scan (s : State) (r : RingId) (x : RingContext) : (s.setCtx r x).scan = s.scan := rfl

@[simp] theorem State.setCtx_rings (s : State) (r : RingId) (x : RingContext) : (s.setCtx r x).rings = s.rings := rfl

@[simp] theorem State.setCtx_contexts (s : State) (r : RingId) (x : RingContext) : (s.setCtx r x).contexts = s.contexts.set r x := rfl

@[simp] theorem State.setCtx_lastChosen (s : State) (r : RingId) (x : RingContext) : (s.setCtx r x).lastChosen = s.lastChosen := rfl

@[simp] theorem State.setCtx_crings (s : State) (r : RingId) (x : RingContext) : (s.setCtx r x).crings = s.crings := rfl

@[simp] theorem State.setCtx_admin (s : State) (r : RingId) (x : RingContext) : (s.setCtx r x).admin = s.admin := rfl

@[simp] theorem State.setCtx_adminCtx (s : State) (r : RingId) (x : RingContext) : (s.setCtx r x).adminCtx = s.adminCtx := rfl

@[simp] theorem State.setCtx_adminArea (s : State) (r : RingId) (x : RingContext) : (s.setCtx r x).adminArea = s.adminArea := rfl

@[simp] theorem State.setCtx_places (s : State) (r : RingId) (x : RingContext) : (s.setCtx r x).places = s.places := rfl

@[simp] theorem State.setCtx_postq (s : State) (r : RingId) (x : RingContext) : (s.setCtx r x).postq = s.postq := rfl

@[simp] theorem State.setCtx_held (s : State) (r : RingId) (x : RingContext) : (s.setCtx r x).held = s.held := rfl

@[simp] theorem State.setCtx_replies (s : State) (r : RingId) (x : RingContext) : (s.setCtx r x).replies = s.replies := rfl

@[simp] theorem State.setCtx_link (s : State) (r : RingId) (x : RingContext) : (s.setCtx r x).link = s.link := rfl

@[simp] theorem State.setCtx_ring (s : State) (r : RingId) (x : RingContext) (i : RingId) : (s.setCtx r x).ring i = s.ring i := rfl

@[simp] theorem State.setCtx_cring (s : State) (r : RingId) (x : RingContext) (i : CRingId) : (s.setCtx r x).cring i = s.cring i := rfl

@[simp] theorem State.setCtx_entry (s : State) (r : RingId) (x : RingContext) (i : EntryId) : (s.setCtx r x).entry i = s.entry i := rfl

@[simp] theorem State.setCtx_occ (s : State) (r : RingId) (x : RingContext) (i : RingId) : (s.setCtx r x).occ i = s.occ i := rfl

@[simp] theorem State.setCtx_place (s : State) (r : RingId) (x : RingContext) (i : PlaceId) : (s.setCtx r x).place i = s.place i := rfl

@[simp] theorem State.setCtx_watchList (s : State) (r : RingId) (x : RingContext) (i : CellId) : (s.setCtx r x).watchList i = s.watchList i := rfl

@[simp] theorem State.setCtx_now32 (s : State) (r : RingId) (x : RingContext)  : (s.setCtx r x).now32 = s.now32 := rfl

@[simp] theorem State.setCtx_hasRoom (s : State) (r : RingId) (x : RingContext)  : (s.setCtx r x).hasRoom = s.hasRoom := rfl

/-! ### setWork -/

@[simp] theorem State.setWork_pending (s : State) (r : RingId) (w : Work) : (s.setWork r w).pending = s.pending := rfl

@[simp] theorem State.setWork_device (s : State) (r : RingId) (w : Work) : (s.setWork r w).device = s.device := rfl

@[simp] theorem State.setWork_fault (s : State) (r : RingId) (w : Work) : (s.setWork r w).fault = s.fault := rfl

@[simp] theorem State.setWork_adminBaseLow (s : State) (r : RingId) (w : Work) : (s.setWork r w).adminBaseLow = s.adminBaseLow := rfl

@[simp] theorem State.setWork_adminBaseHigh (s : State) (r : RingId) (w : Work) : (s.setWork r w).adminBaseHigh = s.adminBaseHigh := rfl

@[simp] theorem State.setWork_adminSize (s : State) (r : RingId) (w : Work) : (s.setWork r w).adminSize = s.adminSize := rfl

@[simp] theorem State.setWork_timeSnapshot (s : State) (r : RingId) (w : Work) : (s.setWork r w).timeSnapshot = s.timeSnapshot := rfl

@[simp] theorem State.setWork_cfg (s : State) (r : RingId) (w : Work) : (s.setWork r w).cfg = s.cfg := rfl

@[simp] theorem State.setWork_timeBase (s : State) (r : RingId) (w : Work) : (s.setWork r w).timeBase = s.timeBase := rfl

@[simp] theorem State.setWork_deadlines (s : State) (r : RingId) (w : Work) : (s.setWork r w).deadlines = s.deadlines := rfl

@[simp] theorem State.setWork_mem (s : State) (r : RingId) (w : Work) : (s.setWork r w).mem = s.mem := rfl

@[simp] theorem State.setWork_arbPointer (s : State) (r : RingId) (w : Work) : (s.setWork r w).arbPointer = s.arbPointer := rfl

@[simp] theorem State.setWork_arbCredit (s : State) (r : RingId) (w : Work) : (s.setWork r w).arbCredit = s.arbCredit := rfl

@[simp] theorem State.setWork_portOp (s : State) (r : RingId) (w : Work) : (s.setWork r w).portOp = s.portOp := rfl

@[simp] theorem State.setWork_table (s : State) (r : RingId) (w : Work) : (s.setWork r w).table = s.table := rfl

@[simp] theorem State.setWork_watch (s : State) (r : RingId) (w : Work) : (s.setWork r w).watch = s.watch := rfl

@[simp] theorem State.setWork_occupancy (s : State) (r : RingId) (w : Work) : (s.setWork r w).occupancy = s.occupancy := rfl

@[simp] theorem State.setWork_wakeQueue (s : State) (r : RingId) (w : Work) : (s.setWork r w).wakeQueue = s.wakeQueue := rfl

@[simp] theorem State.setWork_scan (s : State) (r : RingId) (w : Work) : (s.setWork r w).scan = s.scan := rfl

@[simp] theorem State.setWork_rings (s : State) (r : RingId) (w : Work) : (s.setWork r w).rings = s.rings := rfl

@[simp] theorem State.setWork_contexts (s : State) (r : RingId) (w : Work) : (s.setWork r w).contexts = s.contexts.set r { s.ctx r with work := w } := rfl

@[simp] theorem State.setWork_lastChosen (s : State) (r : RingId) (w : Work) : (s.setWork r w).lastChosen = s.lastChosen := rfl

@[simp] theorem State.setWork_crings (s : State) (r : RingId) (w : Work) : (s.setWork r w).crings = s.crings := rfl

@[simp] theorem State.setWork_admin (s : State) (r : RingId) (w : Work) : (s.setWork r w).admin = s.admin := rfl

@[simp] theorem State.setWork_adminCtx (s : State) (r : RingId) (w : Work) : (s.setWork r w).adminCtx = s.adminCtx := rfl

@[simp] theorem State.setWork_adminArea (s : State) (r : RingId) (w : Work) : (s.setWork r w).adminArea = s.adminArea := rfl

@[simp] theorem State.setWork_places (s : State) (r : RingId) (w : Work) : (s.setWork r w).places = s.places := rfl

@[simp] theorem State.setWork_postq (s : State) (r : RingId) (w : Work) : (s.setWork r w).postq = s.postq := rfl

@[simp] theorem State.setWork_held (s : State) (r : RingId) (w : Work) : (s.setWork r w).held = s.held := rfl

@[simp] theorem State.setWork_replies (s : State) (r : RingId) (w : Work) : (s.setWork r w).replies = s.replies := rfl

@[simp] theorem State.setWork_link (s : State) (r : RingId) (w : Work) : (s.setWork r w).link = s.link := rfl

@[simp] theorem State.setWork_ring (s : State) (r : RingId) (w : Work) (i : RingId) : (s.setWork r w).ring i = s.ring i := rfl

@[simp] theorem State.setWork_cring (s : State) (r : RingId) (w : Work) (i : CRingId) : (s.setWork r w).cring i = s.cring i := rfl

@[simp] theorem State.setWork_entry (s : State) (r : RingId) (w : Work) (i : EntryId) : (s.setWork r w).entry i = s.entry i := rfl

@[simp] theorem State.setWork_occ (s : State) (r : RingId) (w : Work) (i : RingId) : (s.setWork r w).occ i = s.occ i := rfl

@[simp] theorem State.setWork_place (s : State) (r : RingId) (w : Work) (i : PlaceId) : (s.setWork r w).place i = s.place i := rfl

@[simp] theorem State.setWork_watchList (s : State) (r : RingId) (w : Work) (i : CellId) : (s.setWork r w).watchList i = s.watchList i := rfl

@[simp] theorem State.setWork_now32 (s : State) (r : RingId) (w : Work)  : (s.setWork r w).now32 = s.now32 := rfl

@[simp] theorem State.setWork_hasRoom (s : State) (r : RingId) (w : Work)  : (s.setWork r w).hasRoom = s.hasRoom := rfl

/-! ### setCRing -/

@[simp] theorem State.setCRing_pending (s : State) (c : CRingId) (x : CompletionRing) : (s.setCRing c x).pending = s.pending := rfl

@[simp] theorem State.setCRing_device (s : State) (c : CRingId) (x : CompletionRing) : (s.setCRing c x).device = s.device := rfl

@[simp] theorem State.setCRing_fault (s : State) (c : CRingId) (x : CompletionRing) : (s.setCRing c x).fault = s.fault := rfl

@[simp] theorem State.setCRing_adminBaseLow (s : State) (c : CRingId) (x : CompletionRing) : (s.setCRing c x).adminBaseLow = s.adminBaseLow := rfl

@[simp] theorem State.setCRing_adminBaseHigh (s : State) (c : CRingId) (x : CompletionRing) : (s.setCRing c x).adminBaseHigh = s.adminBaseHigh := rfl

@[simp] theorem State.setCRing_adminSize (s : State) (c : CRingId) (x : CompletionRing) : (s.setCRing c x).adminSize = s.adminSize := rfl

@[simp] theorem State.setCRing_timeSnapshot (s : State) (c : CRingId) (x : CompletionRing) : (s.setCRing c x).timeSnapshot = s.timeSnapshot := rfl

@[simp] theorem State.setCRing_cfg (s : State) (c : CRingId) (x : CompletionRing) : (s.setCRing c x).cfg = s.cfg := rfl

@[simp] theorem State.setCRing_timeBase (s : State) (c : CRingId) (x : CompletionRing) : (s.setCRing c x).timeBase = s.timeBase := rfl

@[simp] theorem State.setCRing_deadlines (s : State) (c : CRingId) (x : CompletionRing) : (s.setCRing c x).deadlines = s.deadlines := rfl

@[simp] theorem State.setCRing_mem (s : State) (c : CRingId) (x : CompletionRing) : (s.setCRing c x).mem = s.mem := rfl

@[simp] theorem State.setCRing_arbPointer (s : State) (c : CRingId) (x : CompletionRing) : (s.setCRing c x).arbPointer = s.arbPointer := rfl

@[simp] theorem State.setCRing_arbCredit (s : State) (c : CRingId) (x : CompletionRing) : (s.setCRing c x).arbCredit = s.arbCredit := rfl

@[simp] theorem State.setCRing_portOp (s : State) (c : CRingId) (x : CompletionRing) : (s.setCRing c x).portOp = s.portOp := rfl

@[simp] theorem State.setCRing_table (s : State) (c : CRingId) (x : CompletionRing) : (s.setCRing c x).table = s.table := rfl

@[simp] theorem State.setCRing_watch (s : State) (c : CRingId) (x : CompletionRing) : (s.setCRing c x).watch = s.watch := rfl

@[simp] theorem State.setCRing_occupancy (s : State) (c : CRingId) (x : CompletionRing) : (s.setCRing c x).occupancy = s.occupancy := rfl

@[simp] theorem State.setCRing_wakeQueue (s : State) (c : CRingId) (x : CompletionRing) : (s.setCRing c x).wakeQueue = s.wakeQueue := rfl

@[simp] theorem State.setCRing_scan (s : State) (c : CRingId) (x : CompletionRing) : (s.setCRing c x).scan = s.scan := rfl

@[simp] theorem State.setCRing_rings (s : State) (c : CRingId) (x : CompletionRing) : (s.setCRing c x).rings = s.rings := rfl

@[simp] theorem State.setCRing_contexts (s : State) (c : CRingId) (x : CompletionRing) : (s.setCRing c x).contexts = s.contexts := rfl

@[simp] theorem State.setCRing_lastChosen (s : State) (c : CRingId) (x : CompletionRing) : (s.setCRing c x).lastChosen = s.lastChosen := rfl

@[simp] theorem State.setCRing_crings (s : State) (c : CRingId) (x : CompletionRing) : (s.setCRing c x).crings = s.crings.set c x := rfl

@[simp] theorem State.setCRing_admin (s : State) (c : CRingId) (x : CompletionRing) : (s.setCRing c x).admin = s.admin := rfl

@[simp] theorem State.setCRing_adminCtx (s : State) (c : CRingId) (x : CompletionRing) : (s.setCRing c x).adminCtx = s.adminCtx := rfl

@[simp] theorem State.setCRing_adminArea (s : State) (c : CRingId) (x : CompletionRing) : (s.setCRing c x).adminArea = s.adminArea := rfl

@[simp] theorem State.setCRing_places (s : State) (c : CRingId) (x : CompletionRing) : (s.setCRing c x).places = s.places := rfl

@[simp] theorem State.setCRing_postq (s : State) (c : CRingId) (x : CompletionRing) : (s.setCRing c x).postq = s.postq := rfl

@[simp] theorem State.setCRing_held (s : State) (c : CRingId) (x : CompletionRing) : (s.setCRing c x).held = s.held := rfl

@[simp] theorem State.setCRing_replies (s : State) (c : CRingId) (x : CompletionRing) : (s.setCRing c x).replies = s.replies := rfl

@[simp] theorem State.setCRing_link (s : State) (c : CRingId) (x : CompletionRing) : (s.setCRing c x).link = s.link := rfl

@[simp] theorem State.setCRing_ring (s : State) (c : CRingId) (x : CompletionRing) (i : RingId) : (s.setCRing c x).ring i = s.ring i := rfl

@[simp] theorem State.setCRing_ctx (s : State) (c : CRingId) (x : CompletionRing) (i : RingId) : (s.setCRing c x).ctx i = s.ctx i := rfl

@[simp] theorem State.setCRing_entry (s : State) (c : CRingId) (x : CompletionRing) (i : EntryId) : (s.setCRing c x).entry i = s.entry i := rfl

@[simp] theorem State.setCRing_occ (s : State) (c : CRingId) (x : CompletionRing) (i : RingId) : (s.setCRing c x).occ i = s.occ i := rfl

@[simp] theorem State.setCRing_place (s : State) (c : CRingId) (x : CompletionRing) (i : PlaceId) : (s.setCRing c x).place i = s.place i := rfl

@[simp] theorem State.setCRing_watchList (s : State) (c : CRingId) (x : CompletionRing) (i : CellId) : (s.setCRing c x).watchList i = s.watchList i := rfl

@[simp] theorem State.setCRing_now32 (s : State) (c : CRingId) (x : CompletionRing)  : (s.setCRing c x).now32 = s.now32 := rfl

@[simp] theorem State.setCRing_hasRoom (s : State) (c : CRingId) (x : CompletionRing)  : (s.setCRing c x).hasRoom = s.hasRoom := rfl

/-! ### setEntry -/

@[simp] theorem State.setEntry_pending (s : State) (e : EntryId) (x : Option HoldEntry) : (s.setEntry e x).pending = s.pending := rfl

@[simp] theorem State.setEntry_device (s : State) (e : EntryId) (x : Option HoldEntry) : (s.setEntry e x).device = s.device := rfl

@[simp] theorem State.setEntry_fault (s : State) (e : EntryId) (x : Option HoldEntry) : (s.setEntry e x).fault = s.fault := rfl

@[simp] theorem State.setEntry_adminBaseLow (s : State) (e : EntryId) (x : Option HoldEntry) : (s.setEntry e x).adminBaseLow = s.adminBaseLow := rfl

@[simp] theorem State.setEntry_adminBaseHigh (s : State) (e : EntryId) (x : Option HoldEntry) : (s.setEntry e x).adminBaseHigh = s.adminBaseHigh := rfl

@[simp] theorem State.setEntry_adminSize (s : State) (e : EntryId) (x : Option HoldEntry) : (s.setEntry e x).adminSize = s.adminSize := rfl

@[simp] theorem State.setEntry_timeSnapshot (s : State) (e : EntryId) (x : Option HoldEntry) : (s.setEntry e x).timeSnapshot = s.timeSnapshot := rfl

@[simp] theorem State.setEntry_cfg (s : State) (e : EntryId) (x : Option HoldEntry) : (s.setEntry e x).cfg = s.cfg := rfl

@[simp] theorem State.setEntry_timeBase (s : State) (e : EntryId) (x : Option HoldEntry) : (s.setEntry e x).timeBase = s.timeBase := rfl

@[simp] theorem State.setEntry_deadlines (s : State) (e : EntryId) (x : Option HoldEntry) : (s.setEntry e x).deadlines = s.deadlines := rfl

@[simp] theorem State.setEntry_mem (s : State) (e : EntryId) (x : Option HoldEntry) : (s.setEntry e x).mem = s.mem := rfl

@[simp] theorem State.setEntry_arbPointer (s : State) (e : EntryId) (x : Option HoldEntry) : (s.setEntry e x).arbPointer = s.arbPointer := rfl

@[simp] theorem State.setEntry_arbCredit (s : State) (e : EntryId) (x : Option HoldEntry) : (s.setEntry e x).arbCredit = s.arbCredit := rfl

@[simp] theorem State.setEntry_portOp (s : State) (e : EntryId) (x : Option HoldEntry) : (s.setEntry e x).portOp = s.portOp := rfl

@[simp] theorem State.setEntry_table (s : State) (e : EntryId) (x : Option HoldEntry) : (s.setEntry e x).table = s.table.set e x := rfl

@[simp] theorem State.setEntry_watch (s : State) (e : EntryId) (x : Option HoldEntry) : (s.setEntry e x).watch = s.watch := rfl

@[simp] theorem State.setEntry_occupancy (s : State) (e : EntryId) (x : Option HoldEntry) : (s.setEntry e x).occupancy = s.occupancy := rfl

@[simp] theorem State.setEntry_wakeQueue (s : State) (e : EntryId) (x : Option HoldEntry) : (s.setEntry e x).wakeQueue = s.wakeQueue := rfl

@[simp] theorem State.setEntry_scan (s : State) (e : EntryId) (x : Option HoldEntry) : (s.setEntry e x).scan = s.scan := rfl

@[simp] theorem State.setEntry_rings (s : State) (e : EntryId) (x : Option HoldEntry) : (s.setEntry e x).rings = s.rings := rfl

@[simp] theorem State.setEntry_contexts (s : State) (e : EntryId) (x : Option HoldEntry) : (s.setEntry e x).contexts = s.contexts := rfl

@[simp] theorem State.setEntry_lastChosen (s : State) (e : EntryId) (x : Option HoldEntry) : (s.setEntry e x).lastChosen = s.lastChosen := rfl

@[simp] theorem State.setEntry_crings (s : State) (e : EntryId) (x : Option HoldEntry) : (s.setEntry e x).crings = s.crings := rfl

@[simp] theorem State.setEntry_admin (s : State) (e : EntryId) (x : Option HoldEntry) : (s.setEntry e x).admin = s.admin := rfl

@[simp] theorem State.setEntry_adminCtx (s : State) (e : EntryId) (x : Option HoldEntry) : (s.setEntry e x).adminCtx = s.adminCtx := rfl

@[simp] theorem State.setEntry_adminArea (s : State) (e : EntryId) (x : Option HoldEntry) : (s.setEntry e x).adminArea = s.adminArea := rfl

@[simp] theorem State.setEntry_places (s : State) (e : EntryId) (x : Option HoldEntry) : (s.setEntry e x).places = s.places := rfl

@[simp] theorem State.setEntry_postq (s : State) (e : EntryId) (x : Option HoldEntry) : (s.setEntry e x).postq = s.postq := rfl

@[simp] theorem State.setEntry_held (s : State) (e : EntryId) (x : Option HoldEntry) : (s.setEntry e x).held = s.held := rfl

@[simp] theorem State.setEntry_replies (s : State) (e : EntryId) (x : Option HoldEntry) : (s.setEntry e x).replies = s.replies := rfl

@[simp] theorem State.setEntry_link (s : State) (e : EntryId) (x : Option HoldEntry) : (s.setEntry e x).link = s.link := rfl

@[simp] theorem State.setEntry_ring (s : State) (e : EntryId) (x : Option HoldEntry) (i : RingId) : (s.setEntry e x).ring i = s.ring i := rfl

@[simp] theorem State.setEntry_ctx (s : State) (e : EntryId) (x : Option HoldEntry) (i : RingId) : (s.setEntry e x).ctx i = s.ctx i := rfl

@[simp] theorem State.setEntry_cring (s : State) (e : EntryId) (x : Option HoldEntry) (i : CRingId) : (s.setEntry e x).cring i = s.cring i := rfl

@[simp] theorem State.setEntry_occ (s : State) (e : EntryId) (x : Option HoldEntry) (i : RingId) : (s.setEntry e x).occ i = s.occ i := rfl

@[simp] theorem State.setEntry_place (s : State) (e : EntryId) (x : Option HoldEntry) (i : PlaceId) : (s.setEntry e x).place i = s.place i := rfl

@[simp] theorem State.setEntry_watchList (s : State) (e : EntryId) (x : Option HoldEntry) (i : CellId) : (s.setEntry e x).watchList i = s.watchList i := rfl

@[simp] theorem State.setEntry_now32 (s : State) (e : EntryId) (x : Option HoldEntry)  : (s.setEntry e x).now32 = s.now32 := rfl

@[simp] theorem State.setEntry_hasRoom (s : State) (e : EntryId) (x : Option HoldEntry)  : (s.setEntry e x).hasRoom = s.hasRoom := rfl

/-! ### setOcc -/

@[simp] theorem State.setOcc_pending (s : State) (r : RingId) (n : Nat) : (s.setOcc r n).pending = s.pending := rfl

@[simp] theorem State.setOcc_device (s : State) (r : RingId) (n : Nat) : (s.setOcc r n).device = s.device := rfl

@[simp] theorem State.setOcc_fault (s : State) (r : RingId) (n : Nat) : (s.setOcc r n).fault = s.fault := rfl

@[simp] theorem State.setOcc_adminBaseLow (s : State) (r : RingId) (n : Nat) : (s.setOcc r n).adminBaseLow = s.adminBaseLow := rfl

@[simp] theorem State.setOcc_adminBaseHigh (s : State) (r : RingId) (n : Nat) : (s.setOcc r n).adminBaseHigh = s.adminBaseHigh := rfl

@[simp] theorem State.setOcc_adminSize (s : State) (r : RingId) (n : Nat) : (s.setOcc r n).adminSize = s.adminSize := rfl

@[simp] theorem State.setOcc_timeSnapshot (s : State) (r : RingId) (n : Nat) : (s.setOcc r n).timeSnapshot = s.timeSnapshot := rfl

@[simp] theorem State.setOcc_cfg (s : State) (r : RingId) (n : Nat) : (s.setOcc r n).cfg = s.cfg := rfl

@[simp] theorem State.setOcc_timeBase (s : State) (r : RingId) (n : Nat) : (s.setOcc r n).timeBase = s.timeBase := rfl

@[simp] theorem State.setOcc_deadlines (s : State) (r : RingId) (n : Nat) : (s.setOcc r n).deadlines = s.deadlines := rfl

@[simp] theorem State.setOcc_mem (s : State) (r : RingId) (n : Nat) : (s.setOcc r n).mem = s.mem := rfl

@[simp] theorem State.setOcc_arbPointer (s : State) (r : RingId) (n : Nat) : (s.setOcc r n).arbPointer = s.arbPointer := rfl

@[simp] theorem State.setOcc_arbCredit (s : State) (r : RingId) (n : Nat) : (s.setOcc r n).arbCredit = s.arbCredit := rfl

@[simp] theorem State.setOcc_portOp (s : State) (r : RingId) (n : Nat) : (s.setOcc r n).portOp = s.portOp := rfl

@[simp] theorem State.setOcc_table (s : State) (r : RingId) (n : Nat) : (s.setOcc r n).table = s.table := rfl

@[simp] theorem State.setOcc_watch (s : State) (r : RingId) (n : Nat) : (s.setOcc r n).watch = s.watch := rfl

@[simp] theorem State.setOcc_occupancy (s : State) (r : RingId) (n : Nat) : (s.setOcc r n).occupancy = s.occupancy.set r n := rfl

@[simp] theorem State.setOcc_wakeQueue (s : State) (r : RingId) (n : Nat) : (s.setOcc r n).wakeQueue = s.wakeQueue := rfl

@[simp] theorem State.setOcc_scan (s : State) (r : RingId) (n : Nat) : (s.setOcc r n).scan = s.scan := rfl

@[simp] theorem State.setOcc_rings (s : State) (r : RingId) (n : Nat) : (s.setOcc r n).rings = s.rings := rfl

@[simp] theorem State.setOcc_contexts (s : State) (r : RingId) (n : Nat) : (s.setOcc r n).contexts = s.contexts := rfl

@[simp] theorem State.setOcc_lastChosen (s : State) (r : RingId) (n : Nat) : (s.setOcc r n).lastChosen = s.lastChosen := rfl

@[simp] theorem State.setOcc_crings (s : State) (r : RingId) (n : Nat) : (s.setOcc r n).crings = s.crings := rfl

@[simp] theorem State.setOcc_admin (s : State) (r : RingId) (n : Nat) : (s.setOcc r n).admin = s.admin := rfl

@[simp] theorem State.setOcc_adminCtx (s : State) (r : RingId) (n : Nat) : (s.setOcc r n).adminCtx = s.adminCtx := rfl

@[simp] theorem State.setOcc_adminArea (s : State) (r : RingId) (n : Nat) : (s.setOcc r n).adminArea = s.adminArea := rfl

@[simp] theorem State.setOcc_places (s : State) (r : RingId) (n : Nat) : (s.setOcc r n).places = s.places := rfl

@[simp] theorem State.setOcc_postq (s : State) (r : RingId) (n : Nat) : (s.setOcc r n).postq = s.postq := rfl

@[simp] theorem State.setOcc_held (s : State) (r : RingId) (n : Nat) : (s.setOcc r n).held = s.held := rfl

@[simp] theorem State.setOcc_replies (s : State) (r : RingId) (n : Nat) : (s.setOcc r n).replies = s.replies := rfl

@[simp] theorem State.setOcc_link (s : State) (r : RingId) (n : Nat) : (s.setOcc r n).link = s.link := rfl

@[simp] theorem State.setOcc_ring (s : State) (r : RingId) (n : Nat) (i : RingId) : (s.setOcc r n).ring i = s.ring i := rfl

@[simp] theorem State.setOcc_ctx (s : State) (r : RingId) (n : Nat) (i : RingId) : (s.setOcc r n).ctx i = s.ctx i := rfl

@[simp] theorem State.setOcc_cring (s : State) (r : RingId) (n : Nat) (i : CRingId) : (s.setOcc r n).cring i = s.cring i := rfl

@[simp] theorem State.setOcc_entry (s : State) (r : RingId) (n : Nat) (i : EntryId) : (s.setOcc r n).entry i = s.entry i := rfl

@[simp] theorem State.setOcc_place (s : State) (r : RingId) (n : Nat) (i : PlaceId) : (s.setOcc r n).place i = s.place i := rfl

@[simp] theorem State.setOcc_watchList (s : State) (r : RingId) (n : Nat) (i : CellId) : (s.setOcc r n).watchList i = s.watchList i := rfl

@[simp] theorem State.setOcc_now32 (s : State) (r : RingId) (n : Nat)  : (s.setOcc r n).now32 = s.now32 := rfl

@[simp] theorem State.setOcc_hasRoom (s : State) (r : RingId) (n : Nat)  : (s.setOcc r n).hasRoom = s.hasRoom := rfl

/-! ### setPlace -/

@[simp] theorem State.setPlace_pending (s : State) (p : PlaceId) (x : Option Read) : (s.setPlace p x).pending = s.pending := rfl

@[simp] theorem State.setPlace_device (s : State) (p : PlaceId) (x : Option Read) : (s.setPlace p x).device = s.device := rfl

@[simp] theorem State.setPlace_fault (s : State) (p : PlaceId) (x : Option Read) : (s.setPlace p x).fault = s.fault := rfl

@[simp] theorem State.setPlace_adminBaseLow (s : State) (p : PlaceId) (x : Option Read) : (s.setPlace p x).adminBaseLow = s.adminBaseLow := rfl

@[simp] theorem State.setPlace_adminBaseHigh (s : State) (p : PlaceId) (x : Option Read) : (s.setPlace p x).adminBaseHigh = s.adminBaseHigh := rfl

@[simp] theorem State.setPlace_adminSize (s : State) (p : PlaceId) (x : Option Read) : (s.setPlace p x).adminSize = s.adminSize := rfl

@[simp] theorem State.setPlace_timeSnapshot (s : State) (p : PlaceId) (x : Option Read) : (s.setPlace p x).timeSnapshot = s.timeSnapshot := rfl

@[simp] theorem State.setPlace_cfg (s : State) (p : PlaceId) (x : Option Read) : (s.setPlace p x).cfg = s.cfg := rfl

@[simp] theorem State.setPlace_timeBase (s : State) (p : PlaceId) (x : Option Read) : (s.setPlace p x).timeBase = s.timeBase := rfl

@[simp] theorem State.setPlace_deadlines (s : State) (p : PlaceId) (x : Option Read) : (s.setPlace p x).deadlines = s.deadlines := rfl

@[simp] theorem State.setPlace_mem (s : State) (p : PlaceId) (x : Option Read) : (s.setPlace p x).mem = s.mem := rfl

@[simp] theorem State.setPlace_arbPointer (s : State) (p : PlaceId) (x : Option Read) : (s.setPlace p x).arbPointer = s.arbPointer := rfl

@[simp] theorem State.setPlace_arbCredit (s : State) (p : PlaceId) (x : Option Read) : (s.setPlace p x).arbCredit = s.arbCredit := rfl

@[simp] theorem State.setPlace_portOp (s : State) (p : PlaceId) (x : Option Read) : (s.setPlace p x).portOp = s.portOp := rfl

@[simp] theorem State.setPlace_table (s : State) (p : PlaceId) (x : Option Read) : (s.setPlace p x).table = s.table := rfl

@[simp] theorem State.setPlace_watch (s : State) (p : PlaceId) (x : Option Read) : (s.setPlace p x).watch = s.watch := rfl

@[simp] theorem State.setPlace_occupancy (s : State) (p : PlaceId) (x : Option Read) : (s.setPlace p x).occupancy = s.occupancy := rfl

@[simp] theorem State.setPlace_wakeQueue (s : State) (p : PlaceId) (x : Option Read) : (s.setPlace p x).wakeQueue = s.wakeQueue := rfl

@[simp] theorem State.setPlace_scan (s : State) (p : PlaceId) (x : Option Read) : (s.setPlace p x).scan = s.scan := rfl

@[simp] theorem State.setPlace_rings (s : State) (p : PlaceId) (x : Option Read) : (s.setPlace p x).rings = s.rings := rfl

@[simp] theorem State.setPlace_contexts (s : State) (p : PlaceId) (x : Option Read) : (s.setPlace p x).contexts = s.contexts := rfl

@[simp] theorem State.setPlace_lastChosen (s : State) (p : PlaceId) (x : Option Read) : (s.setPlace p x).lastChosen = s.lastChosen := rfl

@[simp] theorem State.setPlace_crings (s : State) (p : PlaceId) (x : Option Read) : (s.setPlace p x).crings = s.crings := rfl

@[simp] theorem State.setPlace_admin (s : State) (p : PlaceId) (x : Option Read) : (s.setPlace p x).admin = s.admin := rfl

@[simp] theorem State.setPlace_adminCtx (s : State) (p : PlaceId) (x : Option Read) : (s.setPlace p x).adminCtx = s.adminCtx := rfl

@[simp] theorem State.setPlace_adminArea (s : State) (p : PlaceId) (x : Option Read) : (s.setPlace p x).adminArea = s.adminArea := rfl

@[simp] theorem State.setPlace_places (s : State) (p : PlaceId) (x : Option Read) : (s.setPlace p x).places = s.places.set p x := rfl

@[simp] theorem State.setPlace_postq (s : State) (p : PlaceId) (x : Option Read) : (s.setPlace p x).postq = s.postq := rfl

@[simp] theorem State.setPlace_held (s : State) (p : PlaceId) (x : Option Read) : (s.setPlace p x).held = s.held := rfl

@[simp] theorem State.setPlace_replies (s : State) (p : PlaceId) (x : Option Read) : (s.setPlace p x).replies = s.replies := rfl

@[simp] theorem State.setPlace_link (s : State) (p : PlaceId) (x : Option Read) : (s.setPlace p x).link = s.link := rfl

@[simp] theorem State.setPlace_ring (s : State) (p : PlaceId) (x : Option Read) (i : RingId) : (s.setPlace p x).ring i = s.ring i := rfl

@[simp] theorem State.setPlace_ctx (s : State) (p : PlaceId) (x : Option Read) (i : RingId) : (s.setPlace p x).ctx i = s.ctx i := rfl

@[simp] theorem State.setPlace_cring (s : State) (p : PlaceId) (x : Option Read) (i : CRingId) : (s.setPlace p x).cring i = s.cring i := rfl

@[simp] theorem State.setPlace_entry (s : State) (p : PlaceId) (x : Option Read) (i : EntryId) : (s.setPlace p x).entry i = s.entry i := rfl

@[simp] theorem State.setPlace_occ (s : State) (p : PlaceId) (x : Option Read) (i : RingId) : (s.setPlace p x).occ i = s.occ i := rfl

@[simp] theorem State.setPlace_watchList (s : State) (p : PlaceId) (x : Option Read) (i : CellId) : (s.setPlace p x).watchList i = s.watchList i := rfl

@[simp] theorem State.setPlace_now32 (s : State) (p : PlaceId) (x : Option Read)  : (s.setPlace p x).now32 = s.now32 := rfl

@[simp] theorem State.setPlace_hasRoom (s : State) (p : PlaceId) (x : Option Read)  : (s.setPlace p x).hasRoom = s.hasRoom := rfl

/-! ### setWatch -/

@[simp] theorem State.setWatch_pending (s : State) (c : CellId) (l : List EntryId) : (s.setWatch c l).pending = s.pending := rfl

@[simp] theorem State.setWatch_device (s : State) (c : CellId) (l : List EntryId) : (s.setWatch c l).device = s.device := rfl

@[simp] theorem State.setWatch_fault (s : State) (c : CellId) (l : List EntryId) : (s.setWatch c l).fault = s.fault := rfl

@[simp] theorem State.setWatch_adminBaseLow (s : State) (c : CellId) (l : List EntryId) : (s.setWatch c l).adminBaseLow = s.adminBaseLow := rfl

@[simp] theorem State.setWatch_adminBaseHigh (s : State) (c : CellId) (l : List EntryId) : (s.setWatch c l).adminBaseHigh = s.adminBaseHigh := rfl

@[simp] theorem State.setWatch_adminSize (s : State) (c : CellId) (l : List EntryId) : (s.setWatch c l).adminSize = s.adminSize := rfl

@[simp] theorem State.setWatch_timeSnapshot (s : State) (c : CellId) (l : List EntryId) : (s.setWatch c l).timeSnapshot = s.timeSnapshot := rfl

@[simp] theorem State.setWatch_cfg (s : State) (c : CellId) (l : List EntryId) : (s.setWatch c l).cfg = s.cfg := rfl

@[simp] theorem State.setWatch_timeBase (s : State) (c : CellId) (l : List EntryId) : (s.setWatch c l).timeBase = s.timeBase := rfl

@[simp] theorem State.setWatch_deadlines (s : State) (c : CellId) (l : List EntryId) : (s.setWatch c l).deadlines = s.deadlines := rfl

@[simp] theorem State.setWatch_mem (s : State) (c : CellId) (l : List EntryId) : (s.setWatch c l).mem = s.mem := rfl

@[simp] theorem State.setWatch_arbPointer (s : State) (c : CellId) (l : List EntryId) : (s.setWatch c l).arbPointer = s.arbPointer := rfl

@[simp] theorem State.setWatch_arbCredit (s : State) (c : CellId) (l : List EntryId) : (s.setWatch c l).arbCredit = s.arbCredit := rfl

@[simp] theorem State.setWatch_portOp (s : State) (c : CellId) (l : List EntryId) : (s.setWatch c l).portOp = s.portOp := rfl

@[simp] theorem State.setWatch_table (s : State) (c : CellId) (l : List EntryId) : (s.setWatch c l).table = s.table := rfl

@[simp] theorem State.setWatch_watch (s : State) (c : CellId) (l : List EntryId) : (s.setWatch c l).watch = sparsePut [] s.watch c.val l := rfl

@[simp] theorem State.setWatch_occupancy (s : State) (c : CellId) (l : List EntryId) : (s.setWatch c l).occupancy = s.occupancy := rfl

@[simp] theorem State.setWatch_wakeQueue (s : State) (c : CellId) (l : List EntryId) : (s.setWatch c l).wakeQueue = s.wakeQueue := rfl

@[simp] theorem State.setWatch_scan (s : State) (c : CellId) (l : List EntryId) : (s.setWatch c l).scan = s.scan := rfl

@[simp] theorem State.setWatch_rings (s : State) (c : CellId) (l : List EntryId) : (s.setWatch c l).rings = s.rings := rfl

@[simp] theorem State.setWatch_contexts (s : State) (c : CellId) (l : List EntryId) : (s.setWatch c l).contexts = s.contexts := rfl

@[simp] theorem State.setWatch_lastChosen (s : State) (c : CellId) (l : List EntryId) : (s.setWatch c l).lastChosen = s.lastChosen := rfl

@[simp] theorem State.setWatch_crings (s : State) (c : CellId) (l : List EntryId) : (s.setWatch c l).crings = s.crings := rfl

@[simp] theorem State.setWatch_admin (s : State) (c : CellId) (l : List EntryId) : (s.setWatch c l).admin = s.admin := rfl

@[simp] theorem State.setWatch_adminCtx (s : State) (c : CellId) (l : List EntryId) : (s.setWatch c l).adminCtx = s.adminCtx := rfl

@[simp] theorem State.setWatch_adminArea (s : State) (c : CellId) (l : List EntryId) : (s.setWatch c l).adminArea = s.adminArea := rfl

@[simp] theorem State.setWatch_places (s : State) (c : CellId) (l : List EntryId) : (s.setWatch c l).places = s.places := rfl

@[simp] theorem State.setWatch_postq (s : State) (c : CellId) (l : List EntryId) : (s.setWatch c l).postq = s.postq := rfl

@[simp] theorem State.setWatch_held (s : State) (c : CellId) (l : List EntryId) : (s.setWatch c l).held = s.held := rfl

@[simp] theorem State.setWatch_replies (s : State) (c : CellId) (l : List EntryId) : (s.setWatch c l).replies = s.replies := rfl

@[simp] theorem State.setWatch_link (s : State) (c : CellId) (l : List EntryId) : (s.setWatch c l).link = s.link := rfl

@[simp] theorem State.setWatch_ring (s : State) (c : CellId) (l : List EntryId) (i : RingId) : (s.setWatch c l).ring i = s.ring i := rfl

@[simp] theorem State.setWatch_ctx (s : State) (c : CellId) (l : List EntryId) (i : RingId) : (s.setWatch c l).ctx i = s.ctx i := rfl

@[simp] theorem State.setWatch_cring (s : State) (c : CellId) (l : List EntryId) (i : CRingId) : (s.setWatch c l).cring i = s.cring i := rfl

@[simp] theorem State.setWatch_entry (s : State) (c : CellId) (l : List EntryId) (i : EntryId) : (s.setWatch c l).entry i = s.entry i := rfl

@[simp] theorem State.setWatch_occ (s : State) (c : CellId) (l : List EntryId) (i : RingId) : (s.setWatch c l).occ i = s.occ i := rfl

@[simp] theorem State.setWatch_place (s : State) (c : CellId) (l : List EntryId) (i : PlaceId) : (s.setWatch c l).place i = s.place i := rfl

@[simp] theorem State.setWatch_now32 (s : State) (c : CellId) (l : List EntryId)  : (s.setWatch c l).now32 = s.now32 := rfl

@[simp] theorem State.setWatch_hasRoom (s : State) (c : CellId) (l : List EntryId)  : (s.setWatch c l).hasRoom = s.hasRoom := rfl

/-! ### handOver -/

@[simp] theorem State.handOver_pending (s : State) (w : PostedWrite) : (s.handOver w).pending = s.pending := rfl

@[simp] theorem State.handOver_device (s : State) (w : PostedWrite) : (s.handOver w).device = s.device := rfl

@[simp] theorem State.handOver_fault (s : State) (w : PostedWrite) : (s.handOver w).fault = s.fault := rfl

@[simp] theorem State.handOver_adminBaseLow (s : State) (w : PostedWrite) : (s.handOver w).adminBaseLow = s.adminBaseLow := rfl

@[simp] theorem State.handOver_adminBaseHigh (s : State) (w : PostedWrite) : (s.handOver w).adminBaseHigh = s.adminBaseHigh := rfl

@[simp] theorem State.handOver_adminSize (s : State) (w : PostedWrite) : (s.handOver w).adminSize = s.adminSize := rfl

@[simp] theorem State.handOver_timeSnapshot (s : State) (w : PostedWrite) : (s.handOver w).timeSnapshot = s.timeSnapshot := rfl

@[simp] theorem State.handOver_cfg (s : State) (w : PostedWrite) : (s.handOver w).cfg = s.cfg := rfl

@[simp] theorem State.handOver_timeBase (s : State) (w : PostedWrite) : (s.handOver w).timeBase = s.timeBase := rfl

@[simp] theorem State.handOver_deadlines (s : State) (w : PostedWrite) : (s.handOver w).deadlines = s.deadlines := rfl

@[simp] theorem State.handOver_mem (s : State) (w : PostedWrite) : (s.handOver w).mem = s.mem := rfl

@[simp] theorem State.handOver_arbPointer (s : State) (w : PostedWrite) : (s.handOver w).arbPointer = s.arbPointer := rfl

@[simp] theorem State.handOver_arbCredit (s : State) (w : PostedWrite) : (s.handOver w).arbCredit = s.arbCredit := rfl

@[simp] theorem State.handOver_portOp (s : State) (w : PostedWrite) : (s.handOver w).portOp = s.portOp := rfl

@[simp] theorem State.handOver_table (s : State) (w : PostedWrite) : (s.handOver w).table = s.table := rfl

@[simp] theorem State.handOver_watch (s : State) (w : PostedWrite) : (s.handOver w).watch = s.watch := rfl

@[simp] theorem State.handOver_occupancy (s : State) (w : PostedWrite) : (s.handOver w).occupancy = s.occupancy := rfl

@[simp] theorem State.handOver_wakeQueue (s : State) (w : PostedWrite) : (s.handOver w).wakeQueue = s.wakeQueue := rfl

@[simp] theorem State.handOver_scan (s : State) (w : PostedWrite) : (s.handOver w).scan = s.scan := rfl

@[simp] theorem State.handOver_rings (s : State) (w : PostedWrite) : (s.handOver w).rings = s.rings := rfl

@[simp] theorem State.handOver_contexts (s : State) (w : PostedWrite) : (s.handOver w).contexts = s.contexts := rfl

@[simp] theorem State.handOver_lastChosen (s : State) (w : PostedWrite) : (s.handOver w).lastChosen = s.lastChosen := rfl

@[simp] theorem State.handOver_crings (s : State) (w : PostedWrite) : (s.handOver w).crings = s.crings := rfl

@[simp] theorem State.handOver_admin (s : State) (w : PostedWrite) : (s.handOver w).admin = s.admin := rfl

@[simp] theorem State.handOver_adminCtx (s : State) (w : PostedWrite) : (s.handOver w).adminCtx = s.adminCtx := rfl

@[simp] theorem State.handOver_adminArea (s : State) (w : PostedWrite) : (s.handOver w).adminArea = s.adminArea := rfl

@[simp] theorem State.handOver_places (s : State) (w : PostedWrite) : (s.handOver w).places = s.places := rfl

@[simp] theorem State.handOver_postq (s : State) (w : PostedWrite) : (s.handOver w).postq = s.postq ++ [w] := rfl

@[simp] theorem State.handOver_held (s : State) (w : PostedWrite) : (s.handOver w).held = s.held := rfl

@[simp] theorem State.handOver_replies (s : State) (w : PostedWrite) : (s.handOver w).replies = s.replies := rfl

@[simp] theorem State.handOver_link (s : State) (w : PostedWrite) : (s.handOver w).link = s.link := rfl

@[simp] theorem State.handOver_ring (s : State) (w : PostedWrite) (i : RingId) : (s.handOver w).ring i = s.ring i := rfl

@[simp] theorem State.handOver_ctx (s : State) (w : PostedWrite) (i : RingId) : (s.handOver w).ctx i = s.ctx i := rfl

@[simp] theorem State.handOver_cring (s : State) (w : PostedWrite) (i : CRingId) : (s.handOver w).cring i = s.cring i := rfl

@[simp] theorem State.handOver_entry (s : State) (w : PostedWrite) (i : EntryId) : (s.handOver w).entry i = s.entry i := rfl

@[simp] theorem State.handOver_occ (s : State) (w : PostedWrite) (i : RingId) : (s.handOver w).occ i = s.occ i := rfl

@[simp] theorem State.handOver_place (s : State) (w : PostedWrite) (i : PlaceId) : (s.handOver w).place i = s.place i := rfl

@[simp] theorem State.handOver_watchList (s : State) (w : PostedWrite) (i : CellId) : (s.handOver w).watchList i = s.watchList i := rfl

@[simp] theorem State.handOver_now32 (s : State) (w : PostedWrite)  : (s.handOver w).now32 = s.now32 := rfl

/-! ### joinList -/

@[simp] theorem State.joinList_pending (s : State) (c : CRingId) (x : Source) : (s.joinList c x).pending = s.pending := rfl

@[simp] theorem State.joinList_device (s : State) (c : CRingId) (x : Source) : (s.joinList c x).device = s.device := rfl

@[simp] theorem State.joinList_fault (s : State) (c : CRingId) (x : Source) : (s.joinList c x).fault = s.fault := rfl

@[simp] theorem State.joinList_adminBaseLow (s : State) (c : CRingId) (x : Source) : (s.joinList c x).adminBaseLow = s.adminBaseLow := rfl

@[simp] theorem State.joinList_adminBaseHigh (s : State) (c : CRingId) (x : Source) : (s.joinList c x).adminBaseHigh = s.adminBaseHigh := rfl

@[simp] theorem State.joinList_adminSize (s : State) (c : CRingId) (x : Source) : (s.joinList c x).adminSize = s.adminSize := rfl

@[simp] theorem State.joinList_timeSnapshot (s : State) (c : CRingId) (x : Source) : (s.joinList c x).timeSnapshot = s.timeSnapshot := rfl

@[simp] theorem State.joinList_cfg (s : State) (c : CRingId) (x : Source) : (s.joinList c x).cfg = s.cfg := rfl

@[simp] theorem State.joinList_timeBase (s : State) (c : CRingId) (x : Source) : (s.joinList c x).timeBase = s.timeBase := rfl

@[simp] theorem State.joinList_deadlines (s : State) (c : CRingId) (x : Source) : (s.joinList c x).deadlines = s.deadlines := rfl

@[simp] theorem State.joinList_mem (s : State) (c : CRingId) (x : Source) : (s.joinList c x).mem = s.mem := rfl

@[simp] theorem State.joinList_arbPointer (s : State) (c : CRingId) (x : Source) : (s.joinList c x).arbPointer = s.arbPointer := rfl

@[simp] theorem State.joinList_arbCredit (s : State) (c : CRingId) (x : Source) : (s.joinList c x).arbCredit = s.arbCredit := rfl

@[simp] theorem State.joinList_portOp (s : State) (c : CRingId) (x : Source) : (s.joinList c x).portOp = s.portOp := rfl

@[simp] theorem State.joinList_table (s : State) (c : CRingId) (x : Source) : (s.joinList c x).table = s.table := rfl

@[simp] theorem State.joinList_watch (s : State) (c : CRingId) (x : Source) : (s.joinList c x).watch = s.watch := rfl

@[simp] theorem State.joinList_occupancy (s : State) (c : CRingId) (x : Source) : (s.joinList c x).occupancy = s.occupancy := rfl

@[simp] theorem State.joinList_wakeQueue (s : State) (c : CRingId) (x : Source) : (s.joinList c x).wakeQueue = s.wakeQueue := rfl

@[simp] theorem State.joinList_scan (s : State) (c : CRingId) (x : Source) : (s.joinList c x).scan = s.scan := rfl

@[simp] theorem State.joinList_rings (s : State) (c : CRingId) (x : Source) : (s.joinList c x).rings = s.rings := rfl

@[simp] theorem State.joinList_contexts (s : State) (c : CRingId) (x : Source) : (s.joinList c x).contexts = s.contexts := rfl

@[simp] theorem State.joinList_lastChosen (s : State) (c : CRingId) (x : Source) : (s.joinList c x).lastChosen = s.lastChosen := rfl

@[simp] theorem State.joinList_crings (s : State) (c : CRingId) (x : Source) : (s.joinList c x).crings = s.crings.set c { s.cring c with list := (s.cring c).list ++ [x] } := rfl

@[simp] theorem State.joinList_admin (s : State) (c : CRingId) (x : Source) : (s.joinList c x).admin = s.admin := rfl

@[simp] theorem State.joinList_adminCtx (s : State) (c : CRingId) (x : Source) : (s.joinList c x).adminCtx = s.adminCtx := rfl

@[simp] theorem State.joinList_adminArea (s : State) (c : CRingId) (x : Source) : (s.joinList c x).adminArea = s.adminArea := rfl

@[simp] theorem State.joinList_places (s : State) (c : CRingId) (x : Source) : (s.joinList c x).places = s.places := rfl

@[simp] theorem State.joinList_postq (s : State) (c : CRingId) (x : Source) : (s.joinList c x).postq = s.postq := rfl

@[simp] theorem State.joinList_held (s : State) (c : CRingId) (x : Source) : (s.joinList c x).held = s.held := rfl

@[simp] theorem State.joinList_replies (s : State) (c : CRingId) (x : Source) : (s.joinList c x).replies = s.replies := rfl

@[simp] theorem State.joinList_link (s : State) (c : CRingId) (x : Source) : (s.joinList c x).link = s.link := rfl

@[simp] theorem State.joinList_ring (s : State) (c : CRingId) (x : Source) (i : RingId) : (s.joinList c x).ring i = s.ring i := rfl

@[simp] theorem State.joinList_ctx (s : State) (c : CRingId) (x : Source) (i : RingId) : (s.joinList c x).ctx i = s.ctx i := rfl

@[simp] theorem State.joinList_entry (s : State) (c : CRingId) (x : Source) (i : EntryId) : (s.joinList c x).entry i = s.entry i := rfl

@[simp] theorem State.joinList_occ (s : State) (c : CRingId) (x : Source) (i : RingId) : (s.joinList c x).occ i = s.occ i := rfl

@[simp] theorem State.joinList_place (s : State) (c : CRingId) (x : Source) (i : PlaceId) : (s.joinList c x).place i = s.place i := rfl

@[simp] theorem State.joinList_watchList (s : State) (c : CRingId) (x : Source) (i : CellId) : (s.joinList c x).watchList i = s.watchList i := rfl

@[simp] theorem State.joinList_now32 (s : State) (c : CRingId) (x : Source)  : (s.joinList c x).now32 = s.now32 := rfl

@[simp] theorem State.joinList_hasRoom (s : State) (c : CRingId) (x : Source)  : (s.joinList c x).hasRoom = s.hasRoom := rfl

/-! ### Each accessor after its own update -/

@[simp] theorem State.ring_setRing_self (s : State) (r : RingId) (x : RequestRing) : (s.setRing r x).ring r = x := by
  simp [State.ring, State.setRing]

theorem State.ring_setRing_ne (s : State) {r i : RingId} (x : RequestRing) (h : r ≠ i) :
    (s.setRing r x).ring i = s.ring i := by
  simp [State.ring, State.setRing, Vector.getElem_set_ne, Fin.val_ne_of_ne h]

theorem State.ring_setRing (s : State) (r i : RingId) (x : RequestRing) :
    (s.setRing r x).ring i = if r = i then x else s.ring i := by
  split
  · next h => subst h; exact s.ring_setRing_self r x
  · next h => exact s.ring_setRing_ne x h

@[simp] theorem State.ctx_setCtx_self (s : State) (r : RingId) (x : RingContext) : (s.setCtx r x).ctx r = x := by
  simp [State.ctx, State.setCtx]

theorem State.ctx_setCtx_ne (s : State) {r i : RingId} (x : RingContext) (h : r ≠ i) :
    (s.setCtx r x).ctx i = s.ctx i := by
  simp [State.ctx, State.setCtx, Vector.getElem_set_ne, Fin.val_ne_of_ne h]

theorem State.ctx_setCtx (s : State) (r i : RingId) (x : RingContext) :
    (s.setCtx r x).ctx i = if r = i then x else s.ctx i := by
  split
  · next h => subst h; exact s.ctx_setCtx_self r x
  · next h => exact s.ctx_setCtx_ne x h

@[simp] theorem State.ctx_setWork_self (s : State) (r : RingId) (w : Work) :
    (s.setWork r w).ctx r = { s.ctx r with work := w } := s.ctx_setCtx_self r _

theorem State.ctx_setWork_ne (s : State) {r i : RingId} (w : Work) (h : r ≠ i) :
    (s.setWork r w).ctx i = s.ctx i := s.ctx_setCtx_ne _ h

theorem State.ctx_setWork (s : State) (r i : RingId) (w : Work) :
    (s.setWork r w).ctx i = if r = i then { s.ctx r with work := w } else s.ctx i := s.ctx_setCtx r i _

@[simp] theorem State.cring_setCRing_self (s : State) (c : CRingId) (x : CompletionRing) :
    (s.setCRing c x).cring c = x := by
  simp [State.cring, State.setCRing]

theorem State.cring_setCRing_ne (s : State) {c i : CRingId} (x : CompletionRing) (h : c ≠ i) :
    (s.setCRing c x).cring i = s.cring i := by
  simp [State.cring, State.setCRing, Vector.getElem_set_ne, Fin.val_ne_of_ne h]

theorem State.cring_setCRing (s : State) (c i : CRingId) (x : CompletionRing) :
    (s.setCRing c x).cring i = if c = i then x else s.cring i := by
  split
  · next h => subst h; exact s.cring_setCRing_self c x
  · next h => exact s.cring_setCRing_ne x h

/-- A source joins the list of its own completion ring alone (R134). -/
theorem State.cring_joinList (s : State) (c i : CRingId) (x : Source) :
    (s.joinList c x).cring i = if c = i then { s.cring c with list := (s.cring c).list ++ [x] } else s.cring i :=
  s.cring_setCRing c i _

@[simp] theorem State.entry_setEntry_self (s : State) (e : EntryId) (x : Option HoldEntry) :
    (s.setEntry e x).entry e = x := by
  simp [State.entry, State.setEntry]

theorem State.entry_setEntry_ne (s : State) {e i : EntryId} (x : Option HoldEntry) (h : e ≠ i) :
    (s.setEntry e x).entry i = s.entry i := by
  simp [State.entry, State.setEntry, Vector.getElem_set_ne, Fin.val_ne_of_ne h]

theorem State.entry_setEntry (s : State) (e i : EntryId) (x : Option HoldEntry) :
    (s.setEntry e x).entry i = if e = i then x else s.entry i := by
  split
  · next h => subst h; exact s.entry_setEntry_self e x
  · next h => exact s.entry_setEntry_ne x h

@[simp] theorem State.occ_setOcc_self (s : State) (r : RingId) (n : Nat) : (s.setOcc r n).occ r = n := by
  simp [State.occ, State.setOcc]

theorem State.occ_setOcc_ne (s : State) {r i : RingId} (n : Nat) (h : r ≠ i) : (s.setOcc r n).occ i = s.occ i := by
  simp [State.occ, State.setOcc, Vector.getElem_set_ne, Fin.val_ne_of_ne h]

theorem State.occ_setOcc (s : State) (r i : RingId) (n : Nat) :
    (s.setOcc r n).occ i = if r = i then n else s.occ i := by
  split
  · next h => subst h; exact s.occ_setOcc_self r n
  · next h => exact s.occ_setOcc_ne n h

@[simp] theorem State.place_setPlace_self (s : State) (p : PlaceId) (x : Option Read) :
    (s.setPlace p x).place p = x := by
  simp [State.place, State.setPlace]

theorem State.place_setPlace_ne (s : State) {p i : PlaceId} (x : Option Read) (h : p ≠ i) :
    (s.setPlace p x).place i = s.place i := by
  simp [State.place, State.setPlace, Vector.getElem_set_ne, Fin.val_ne_of_ne h]

theorem State.place_setPlace (s : State) (p i : PlaceId) (x : Option Read) :
    (s.setPlace p x).place i = if p = i then x else s.place i := by
  split
  · next h => subst h; exact s.place_setPlace_self p x
  · next h => exact s.place_setPlace_ne x h

/-! ### An update over an update, and an update with the value that stands -/

@[simp] theorem State.setRing_setRing (s : State) (r : RingId) (x y : RequestRing) :
    (s.setRing r x).setRing r y = s.setRing r y := by
  simp [State.setRing]

@[simp] theorem State.setRing_ring (s : State) (r : RingId) : s.setRing r (s.ring r) = s := by
  simp [State.setRing, State.ring]

@[simp] theorem State.setCtx_setCtx (s : State) (r : RingId) (x y : RingContext) :
    (s.setCtx r x).setCtx r y = s.setCtx r y := by
  simp [State.setCtx]

@[simp] theorem State.setCtx_ctx (s : State) (r : RingId) : s.setCtx r (s.ctx r) = s := by
  simp [State.setCtx, State.ctx]

@[simp] theorem State.setCRing_setCRing (s : State) (c : CRingId) (x y : CompletionRing) :
    (s.setCRing c x).setCRing c y = s.setCRing c y := by
  simp [State.setCRing]

@[simp] theorem State.setCRing_cring (s : State) (c : CRingId) : s.setCRing c (s.cring c) = s := by
  simp [State.setCRing, State.cring]

@[simp] theorem State.setEntry_setEntry (s : State) (e : EntryId) (x y : Option HoldEntry) :
    (s.setEntry e x).setEntry e y = s.setEntry e y := by
  simp [State.setEntry]

@[simp] theorem State.setEntry_entry (s : State) (e : EntryId) : s.setEntry e (s.entry e) = s := by
  simp [State.setEntry, State.entry]

@[simp] theorem State.setOcc_setOcc (s : State) (r : RingId) (x y : Nat) :
    (s.setOcc r x).setOcc r y = s.setOcc r y := by
  simp [State.setOcc]

@[simp] theorem State.setOcc_occ (s : State) (r : RingId) : s.setOcc r (s.occ r) = s := by
  simp [State.setOcc, State.occ]

@[simp] theorem State.setPlace_setPlace (s : State) (p : PlaceId) (x y : Option Read) :
    (s.setPlace p x).setPlace p y = s.setPlace p y := by
  simp [State.setPlace]

@[simp] theorem State.setPlace_place (s : State) (p : PlaceId) : s.setPlace p (s.place p) = s := by
  simp [State.setPlace, State.place]

/-- A work state that stands already changes nothing. -/
theorem State.setWork_self (s : State) (r : RingId) (w : Work) (h : (s.ctx r).work = w) : s.setWork r w = s := by
  subst h
  exact s.setCtx_ctx r

end Sys2Proof.Machine
end

