-- ==== Sys2Proof/Laws/Ops.lean ====
section
/-! SUPPORT. One lemma for each shared operation of Machine/Ops.lean that says what it can do: which fields it can
touch (its frame) and, where it has cases, what each case answers. Proofs cite these and unfold nothing. -/

namespace Sys2Proof.Machine

/-! ### Which write takes a free place (R174) -/

/-- The admin completion area comes first: no other list keeps its record waiting. -/
theorem State.mayWrite_admin (s : State) : s.mayWrite .admin = s.canWrite .admin := by
  cases h : s.canWrite .admin <;> simp [State.mayWrite, listOrder, h]

/-- A completion ring writes its record when it can, and neither the admin completion area nor a ring below it can. -/
theorem State.mayWrite_ring (s : State) (c : CRingId) : s.mayWrite (.ring c) = true ↔
    s.canWrite (.ring c) = true ∧ s.canWrite .admin = false ∧ ∀ i, i < c → s.canWrite (.ring i) = false := by
  simp only [State.mayWrite, listOrder, decide_eq_true_eq, List.find?_cons, List.find?_map]
  cases s.canWrite .admin
  · rw [Option.map_eq_some_iff]
    simp only [List.find?_eq_some_iff_getElem, Function.comp_apply, List.length_finRange, List.getElem_finRange,
      Fin.cast_mk, ListId.ring.injEq, exists_eq_right, true_and, Bool.not_eq_true', and_congr_right_iff]
    intro _
    constructor
    · rintro ⟨i, h, rfl, hj⟩ j hlt
      exact hj j.val hlt
    · intro hj
      exact ⟨c.val, c.isLt, rfl, fun j hlt => hj ⟨j, by omega⟩ hlt⟩
  · simp

/-- The last cell of a BULK READ finds a place when the queue has one and no list can write. -/
theorem State.bulkRoom_iff (s : State) : s.bulkRoom = true ↔ s.hasRoom = true ∧ ∀ l, s.canWrite l = false := by
  simp only [State.bulkRoom, Bool.and_eq_true, Bool.not_eq_true', List.any_eq_false, listOrder]
  constructor
  · rintro ⟨a, b⟩
    exact ⟨a, fun l => by cases l <;> simp_all⟩
  · rintro ⟨a, b⟩
    exact ⟨a, fun l _ => by simp [b l]⟩

/-! ### The arbiter (R18 to R20) -/

/-- A chosen ring has cell-port work (R19, R20). -/
theorem State.chooseRing_hasWork (s : State) {r : RingId} {k : Nat} (h : s.chooseRing = some (r, k)) :
    s.hasWork r = true := by
  unfold State.chooseRing at h
  split at h
  · next hp =>
    simp only [Option.some.injEq, Prod.mk.injEq] at h
    simp only [Bool.and_eq_true] at hp
    exact h.1 ▸ hp.1
  · rw [Option.map_eq_some_iff] at h
    obtain ⟨x, hx, he⟩ := h
    simp only [Prod.mk.injEq] at he
    exact he.1 ▸ List.find?_some hx

/-- The Wake Scan is chosen exactly when it has a step to make (R18). -/
theorem State.chosen_scan (s : State) : s.chosen = some .scan ↔ s.scan ≠ .idle := by
  unfold State.chosen State.scanHasWork
  cases hs : s.scan with
  | idle =>
    simp only [ne_eq, not_true_eq_false, decide_false, Bool.false_eq_true, if_false]
    split
    · simp
    · cases s.chooseRing <;> simp
  | scanning c e => simp

/-- The admin context is chosen exactly when no scan is in progress and it has work (R18). -/
theorem State.chosen_admin (s : State) : s.chosen = some .admin ↔ s.scan = .idle ∧ s.adminHasWork = true := by
  unfold State.chosen State.scanHasWork
  cases hs : s.scan with
  | idle =>
    simp only [ne_eq, not_true_eq_false, decide_false, Bool.false_eq_true, if_false]
    cases ha : s.adminHasWork with
    | true => simp
    | false => cases s.chooseRing <;> simp
  | scanning c e => simp

/-- A request ring is chosen only when no scan is in progress, the admin context has no work and the round robin
names it (R18, R20). -/
theorem State.chosen_ring (s : State) (r : RingId) :
    s.chosen = some (.ring r) ↔ s.scan = .idle ∧ s.adminHasWork = false ∧ ∃ k, s.chooseRing = some (r, k) := by
  unfold State.chosen State.scanHasWork
  cases hs : s.scan with
  | idle =>
    simp only [ne_eq, not_true_eq_false, decide_false, Bool.false_eq_true, if_false]
    cases ha : s.adminHasWork with
    | true => simp
    | false =>
      cases hc : s.chooseRing with
      | none => simp
      | some x =>
        obtain ⟨i, k⟩ := x
        simp
  | scanning c e => simp

/-- A grant moves nothing but the pointer and the credit (R20). -/
theorem State.chargeGrant_frame (s : State) (q : Requester) :
    ∃ p k, s.chargeGrant q = { s with arbPointer := p, arbCredit := k } := by
  unfold State.chargeGrant
  split
  · exact ⟨_, _, rfl⟩
  · exact ⟨_, _, rfl⟩

/-- Grants to the Wake Scan and to the admin context change neither the pointer nor the credit (R20). -/
@[simp] theorem State.chargeGrant_scan (s : State) : s.chargeGrant .scan = s := rfl

@[simp] theorem State.chargeGrant_admin (s : State) : s.chargeGrant .admin = s := rfl

/-- A granted ring is charged what the round robin says (R20). -/
theorem State.chargeGrant_ring (s : State) (q r : RingId) (k : Nat) (h : s.chooseRing = some (r, k)) :
    s.chargeGrant (.ring q) = { s with arbPointer := r, arbCredit := k } := by
  simp [State.chargeGrant, h]

/-- All that a grant can be: the arbiter's choice in RUNNING, or the operation in progress in RESETTING (R18, R21). -/
theorem State.grant_cases (s : State) {q : Requester} {t : State} (h : s.grant q = some t) :
    (s.device = .running ∧ s.chosen = some q ∧ t = s.chargeGrant q) ∨
    (s.device = .resetting ∧ s.portOp = some q ∧ t = { s with portOp := none }) := by
  unfold State.grant at h
  split at h
  · next hd => split at h <;> simp_all
  · next hd => split at h <;> simp_all
  · simp at h

/-- A grant moves nothing but the arbiter's registers. -/
theorem State.grant_frame (s : State) {q : Requester} {t : State} (h : s.grant q = some t) :
    ∃ p k o, t = { s with arbPointer := p, arbCredit := k, portOp := o } := by
  rcases s.grant_cases h with ⟨-, -, rfl⟩ | ⟨-, -, rfl⟩
  · obtain ⟨p, k, e⟩ := s.chargeGrant_frame q
    exact ⟨p, k, s.portOp, e⟩
  · exact ⟨s.arbPointer, s.arbCredit, none, rfl⟩

/-! ### Posted writes, messages and FAULT (R166, R174, R176, R181) -/

/-- Sending the replies touches the replies and the link alone. -/
theorem State.flushReplies_frame (s : State) :
    ∃ y l, s.flushReplies = { s with replies := y, link := l } := ⟨_, _, rfl⟩

/-- Writes that are gone from the front leave the rest of the queue in order; else the replies and the link alone are
touched. -/
theorem State.removeFirst_frame (s : State) (n : Nat) :
    ∃ y l, s.removeFirst n = { s with postq := s.postq.drop n, replies := y, link := l } := ⟨_, _, rfl⟩

/-- With message-signalled interrupts disabled no message is left at the head (R176). -/
theorem head_drop_droppedMessages (q : List PostedWrite) :
    ∀ w, (q.drop (droppedMessages false q)).head? = some w → w.isMessage = false := by
  simp only [droppedMessages, Bool.false_eq_true, if_false]
  induction q with
  | nil => simp
  | cons x xs ih =>
    intro w hw
    rw [List.takeWhile_cons] at hw
    split at hw
    · exact ih w (by simpa using hw)
    · next hx => simp_all

/-- With message-signalled interrupts enabled no message is dropped (R176). -/
theorem State.dropMessages_enabled (s : State) (h : s.cfg.msiEnable = true) : s.dropMessages = s := by
  simp [State.dropMessages, droppedMessages, h]

/-- All that dropping can do: writes leave the front of the queue, and with message-signalled interrupts disabled no
message is at its head after it (R176). -/
theorem State.dropMessages_cases (s : State) :
    ∃ n y l, s.dropMessages = { s with postq := s.postq.drop n, replies := y, link := l } ∧
      (s.cfg.msiEnable = false → ∀ w, (s.postq.drop n).head? = some w → w.isMessage = false) := by
  have hd : s.cfg.msiEnable = false →
      ∀ w, (s.postq.drop (droppedMessages s.cfg.msiEnable s.postq)).head? = some w → w.isMessage = false := by
    intro hm
    rw [hm]
    exact head_drop_droppedMessages s.postq
  unfold State.dropMessages
  dsimp only
  split
  · next h => exact ⟨0, s.replies, s.link, by simp, by rwa [h] at hd⟩
  · obtain ⟨y, l, h⟩ := s.removeFirst_frame (droppedMessages s.cfg.msiEnable s.postq)
    exact ⟨_, y, l, h, hd⟩

/-- The write that joins behind a queue keeps its law when it is no message, or joins behind another write, or messages
are enabled (R174, R176). -/
theorem State.queueLaw_handOver (s : State) (w : PostedWrite) (hs : s.QueueLaw) (hr : s.placeFree = true)
    (hw : w.isMessage = false ∨ s.postq ≠ [] ∨ s.cfg.msiEnable = true) : (s.handOver w).QueueLaw := by
  obtain ⟨h1, h2⟩ := hs
  simp only [State.placeFree, decide_eq_true_eq] at hr
  refine ⟨?_, fun hm x hx => ?_⟩
  · simpa [State.handOver] using hr
  · change (s.postq ++ [w]).head? = some x at hx
    change s.cfg.msiEnable = false at hm
    cases hq : s.postq with
    | nil => simp_all
    | cons y ys => exact h2 hm x (by simp_all)

/-- A message that takes a place joins the tail of the queue, or is dropped at its head (R176). -/
theorem State.placeMessage_cases (s : State) (m : Message) :
    (s.postq = [] ∧ s.cfg.msiEnable = false ∧ s.placeMessage m = s) ∨
    ((s.postq ≠ [] ∨ s.cfg.msiEnable = true) ∧ s.placeMessage m = s.handOver (.message m)) := by
  unfold State.placeMessage
  cases hq : s.postq <;> cases hm : s.cfg.msiEnable <;> simp

/-- A message that takes a place touches the queue alone. -/
theorem State.placeMessage_frame (s : State) (m : Message) : ∃ q, s.placeMessage m = { s with postq := q } := by
  rcases s.placeMessage_cases m with ⟨-, -, h⟩ | ⟨-, h⟩ <;> exact ⟨_, h⟩

/-- A message that takes a free place keeps the law of the queue. -/
theorem State.queueLaw_placeMessage (s : State) (m : Message) (hs : s.QueueLaw) (hr : s.placeFree = true) :
    (s.placeMessage m).QueueLaw := by
  rcases s.placeMessage_cases m with ⟨-, -, h⟩ | ⟨hq, h⟩
  · rwa [h]
  · rw [h]
    exact s.queueLaw_handOver _ hs hr (.inr hq)

/-- The release of a held message touches the queue, the held messages, the replies and the link alone, and keeps the
law of the queue (R174, R181). -/
theorem State.releaseVector_frame (s : State) (v : VectorId) :
    ∃ q h y l, s.releaseVector v = { s with postq := q, held := h, replies := y, link := l } ∧
      (s.QueueLaw → (s.releaseVector v).QueueLaw) := by
  unfold State.releaseVector
  split
  · exact ⟨_, _, _, _, rfl, id⟩
  · next m _ =>
    split
    · next hr =>
      have hk : s.QueueLaw → (s.placeMessage m).QueueLaw := fun hs => s.queueLaw_placeMessage m hs hr
      obtain ⟨q, h⟩ := s.placeMessage_frame m
      rw [h] at hk ⊢
      exact ⟨q, _, _, _, rfl, hk⟩
    · exact ⟨_, _, _, _, rfl, id⟩

/-- A vector that holds no message releases none. -/
theorem State.releaseVector_none (s : State) (v : VectorId) (h : s.held[v] = none) : s.releaseVector v = s := by
  have h' : s.held[v.val] = none := h
  simp [State.releaseVector, h']

/-- A full queue releases none (R174). -/
theorem State.releaseVector_full (s : State) (v : VectorId) (h : s.placeFree = false) : s.releaseVector v = s := by
  unfold State.releaseVector
  split <;> simp [h]

/-- The release of every held message has the frame of one release. -/
theorem State.releaseHeld_frame (s : State) :
    ∃ q h y l, s.releaseHeld = { s with postq := q, held := h, replies := y, link := l } ∧
      (s.QueueLaw → s.releaseHeld.QueueLaw) := by
  unfold State.releaseHeld
  generalize List.finRange 5 = vs
  induction vs generalizing s with
  | nil => exact ⟨_, _, _, _, rfl, id⟩
  | cons v vs ih =>
    obtain ⟨q, h, y, l, e, k⟩ := s.releaseVector_frame v
    obtain ⟨q', h', y', l', e', k'⟩ := ih (s.releaseVector v)
    refine ⟨q', h', y', l', ?_, fun hs => k' (k hs)⟩
    rw [List.foldl_cons, e', e]

/-- Where no message is held none is released. -/
theorem State.releaseHeld_none (s : State) (h : ∀ v : VectorId, s.held[v] = none) : s.releaseHeld = s := by
  unfold State.releaseHeld
  induction List.finRange 5 with
  | nil => rfl
  | cons v vs ih => rw [List.foldl_cons, s.releaseVector_none v (h v), ih]

/-- A full queue releases no held message (R174). -/
theorem State.releaseHeld_full (s : State) (h : s.placeFree = false) : s.releaseHeld = s := by
  unfold State.releaseHeld
  induction List.finRange 5 with
  | nil => rfl
  | cons v vs ih => rw [List.foldl_cons, s.releaseVector_full v h, ih]

/-- Handing over a message touches the queue, the held messages, the replies and the link alone, and keeps the law of
the queue (R174, R176). -/
theorem State.sendMessage_frame (s : State) (v : VectorId) :
    ∃ q h y l, s.sendMessage v = { s with postq := q, held := h, replies := y, link := l } ∧
      (s.QueueLaw → (s.sendMessage v).QueueLaw) := by
  obtain ⟨q, h, y, l, e, k⟩ := s.releaseHeld_frame
  unfold State.sendMessage
  dsimp only
  split
  · next hr =>
    obtain ⟨q', hp⟩ := s.releaseHeld.placeMessage_frame (s.messageFor v)
    exact ⟨q', h, y, l, by rw [hp, e], fun hs => s.releaseHeld.queueLaw_placeMessage _ (k hs) hr⟩
  · split
    · exact ⟨q, h, y, l, e, k⟩
    · generalize s.releaseHeld = u at e k
      subst e
      exact ⟨q, _, y, l, rfl, k⟩

/-- With a place free and no message held the message takes the place (R174). -/
theorem State.sendMessage_room (s : State) (v : VectorId) (h : s.placeFree = true)
    (hn : ∀ i : VectorId, s.held[i] = none) : s.sendMessage v = s.placeMessage (s.messageFor v) := by
  simp [State.sendMessage, s.releaseHeld_none hn, h]

/-- With the queue full a vector that holds no message holds it (R174). -/
theorem State.sendMessage_held (s : State) (v : VectorId) (h : s.placeFree = false) (hv : s.held[v] = none) :
    s.sendMessage v = { s with held := s.held.set v (some (s.messageFor v)) } := by
  have hv' : s.held[v.val] = none := hv
  simp [State.sendMessage, s.releaseHeld_full h, h, hv']

/-- With the queue full a further message of a vector adds nothing (R174). -/
theorem State.sendMessage_again (s : State) (v : VectorId) (m : Message) (h : s.placeFree = false)
    (hv : s.held[v] = some m) : s.sendMessage v = s := by
  have hv' : s.held[v.val] = some m := hv
  simp [State.sendMessage, s.releaseHeld_full h, h, hv']

/-- A bit that is set already sends nothing (R166). -/
theorem State.setFault_set (s : State) (b : FaultBit) (h : s.fault.get b = true) : s.setFault b = s := by
  simp [State.setFault, h]

/-- Setting a bit touches FAULT, the queue, the held messages, the replies and the link alone, and keeps the law of the
queue. -/
theorem State.setFault_frame (s : State) (b : FaultBit) :
    ∃ f q h y l, s.setFault b = { s with fault := f, postq := q, held := h, replies := y, link := l } ∧
      (s.QueueLaw → (s.setFault b).QueueLaw) := by
  unfold State.setFault
  split
  · exact ⟨s.fault, s.postq, s.held, s.replies, s.link, rfl, id⟩
  · dsimp only
    split
    · exact ⟨s.fault.set b, s.postq, s.held, s.replies, s.link, rfl, id⟩
    · obtain ⟨q, h, y, l, e, k⟩ := State.sendMessage_frame { s with fault := s.fault.set b } 0
      exact ⟨_, q, h, y, l, e, k⟩

/-! ### The wake queue and the scan (R61 to R67) -/

/-- All that taking the head can answer: the first queued cell with watchers, or IDLE when there is none (R63, R67). -/
theorem nextScan_cases (watch : CellId → List EntryId) (q : List CellId) :
    (nextScan watch q = (.idle, []) ∧ ∀ c ∈ q, watch c = []) ∨
    ∃ pre c e rest, q = pre ++ c :: rest ∧ (∀ d ∈ pre, watch d = []) ∧ (watch c).head? = some e ∧
      nextScan watch q = (.scanning c e, rest) := by
  induction q with
  | nil => exact .inl ⟨rfl, by simp⟩
  | cons c rest ih =>
    unfold nextScan
    split
    · next e es hw => exact .inr ⟨[], c, e, rest, rfl, by simp, by simp [hw], rfl⟩
    · next hw =>
      rcases ih with ⟨h1, h2⟩ | ⟨pre, d, e, r, rfl, h2, h3, h4⟩
      · exact .inl ⟨h1, by simpa [hw] using h2⟩
      · exact .inr ⟨c :: pre, d, e, r, rfl, by simpa [hw] using h2, h3, h4⟩

theorem State.takeHead_frame (s : State) : ∃ x q, s.takeHead = { s with scan := x, wakeQueue := q } := ⟨_, _, rfl⟩

theorem State.moveOn_frame (s : State) (c : CellId) (n : Option EntryId) :
    ∃ x q, s.moveOn c n = { s with scan := x, wakeQueue := q } := by
  cases n with
  | none => exact s.takeHead_frame
  | some e => exact ⟨_, _, rfl⟩

/-- A change report touches the wake queue and the scan alone (R22, R61). -/
theorem State.reportChange_frame (s : State) (c : CellId) :
    ∃ x q, s.reportChange c = { s with scan := x, wakeQueue := q } := by
  unfold State.reportChange
  split
  · exact ⟨_, _, rfl⟩
  · dsimp only
    split
    · exact ⟨_, _, rfl⟩
    · exact ⟨_, _, rfl⟩

theorem State.reportIf_frame (s : State) (b : Bool) (c : CellId) :
    ∃ x q, s.reportIf b c = { s with scan := x, wakeQueue := q } := by
  unfold State.reportIf
  split
  · exact s.reportChange_frame c
  · exact ⟨_, _, rfl⟩

/-- A cell without watchers is not queued (R61). -/
theorem State.reportChange_unwatched (s : State) (c : CellId) (h : s.watchList c = []) : s.reportChange c = s := by
  simp [State.reportChange, h]

/-- A cell that is queued keeps its place (R61). -/
theorem State.reportChange_queued (s : State) (c : CellId) (h : c ∈ s.wakeQueue) : s.reportChange c = s := by
  simp [State.reportChange, h]

/-- While a scan is in progress a watched cell that is not queued joins the tail (R61, R70). -/
theorem State.reportChange_scanning (s : State) (c : CellId) (h : s.watchList c ≠ []) (hq : c ∉ s.wakeQueue)
    (hs : s.scan ≠ .idle) : s.reportChange c = { s with wakeQueue := s.wakeQueue ++ [c] } := by
  simp [State.reportChange, h, hq, hs]

/-- An idle scan with an empty queue takes a reported watched cell at once (R63). -/
theorem State.reportChange_idle (s : State) (c : CellId) (e : EntryId) (es : List EntryId)
    (h : s.watchList c = e :: es) (hq : s.wakeQueue = []) (hs : s.scan = .idle) :
    s.reportChange c = { s with scan := .scanning c e } := by
  have hw : State.watchList { s with wakeQueue := [c], scan := .idle } c = e :: es := h
  simp [State.reportChange, h, hq, hs, State.takeHead, nextScan, hw]

/-! ### Ends of requests (R111, R143, R154) -/

/-- Ending a request touches the contexts and the completion rings alone. -/
theorem State.finish_frame (s : State) (r : RingId) (quiet : Bool) (o : Report) :
    ∃ x y, s.finish r quiet o = { s with contexts := x, crings := y } := by
  unfold State.finish
  split
  · exact ⟨_, _, rfl⟩
  · exact ⟨_, _, rfl⟩

/-- A QUIET OK outcome leaves the context EMPTY and joins no list (R143). -/
theorem State.finish_quiet (s : State) (r : RingId) (o : Report) (h : o.status = .ok) :
    s.finish r true o = s.setWork r .empty := by
  simp [State.finish, h]

/-- Any other outcome is reported (R111, R143). -/
theorem State.finish_reported (s : State) (r : RingId) (quiet : Bool) (o : Report)
    (h : quiet = false ∨ o.status ≠ .ok) :
    s.finish r quiet o = (s.setWork r (.reporting o)).joinList (s.ring r).config.cring (.ring r) := by
  rcases h with h | h <;> simp [State.finish, h]

/-! ### Freeing and claims (R47 to R55) -/

/-- Making the waiting contexts ready touches the contexts alone, and only the readiness of their waits (R41). -/
theorem State.ctx_makeReady (s : State) (r : RingId) :
    s.makeReady.ctx r = { s.ctx r with work := (s.ctx r).work.makeReady } := by
  simp [State.makeReady, State.ctx]

theorem State.makeReady_frame (s : State) : ∃ x, s.makeReady = { s with contexts := x } := ⟨_, rfl⟩

/-- Freeing an entry touches the table, the occupancies and the contexts alone (R55). -/
theorem State.freeEntry_frame (s : State) (e : EntryId) :
    ∃ t o x, s.freeEntry e = { s with table := t, occupancy := o, contexts := x } := by
  unfold State.freeEntry
  split
  · exact ⟨_, _, _, rfl⟩
  · exact ⟨_, _, _, rfl⟩

/-- Freeing a held entry (R55). -/
theorem State.freeEntry_some (s : State) (e : EntryId) (x : HoldEntry) (h : s.entry e = some x) :
    s.freeEntry e = ((s.setEntry e none).setOcc x.origin (s.occ x.origin - 1)).makeReady := by
  simp [State.freeEntry, h]

/-- After freeing, the entry is FREE and every other entry is as it was (R55). -/
theorem State.entry_freeEntry (s : State) (e i : EntryId) :
    (s.freeEntry e).entry i = if e = i then none else s.entry i := by
  cases h : s.entry e with
  | none =>
    simp only [State.freeEntry, h]
    split
    · next he => subst he; exact h
    · rfl
  | some x =>
    rw [s.freeEntry_some e x h]
    exact s.entry_setEntry e i none

/-- Arming touches the deadline list, the table, the watch lists and the occupancies alone (R47). -/
theorem State.arm_frame (s : State) (r : RingId) (h : Header) (act : Action) (k : Condition) (d : Option Time)
    (e : EntryId) :
    ∃ l t w o, s.arm r h act k d e = { s with deadlines := l, table := t, watch := w, occupancy := o } :=
  ⟨_, _, _, _, rfl⟩

/-- Leaving the lists touches the watch lists, the wake queue and the deadline list alone (R49). -/
theorem State.dropEntry_frame (s : State) (e : EntryId) (c : CellId) :
    ∃ w q l, s.dropEntry e c = { s with watch := w, wakeQueue := q, deadlines := l } := ⟨_, _, _, rfl⟩

/-- A claim on an entry that is not ARMED does nothing (R53). -/
theorem State.claimEnd_free (s : State) (st : Status) (e : EntryId) (h : s.entry e = none) : s.claimEnd st e = s := by
  simp [State.claimEnd, h]

theorem State.claimEnd_ended (s : State) (st : Status) (e : EntryId) (x : HoldEntry) (h : s.entry e = some x)
    (ha : x.isArmed = false) : s.claimEnd st e = s := by
  simp [State.claimEnd, h, ha]

/-- All that a claim can do: nothing, or the ending of an ARMED entry (R49, R53). -/
theorem State.claimEnd_cases (s : State) (st : Status) (e : EntryId) :
    s.claimEnd st e = s ∨
    ∃ x, s.entry e = some x ∧ x.isArmed = true ∧
      s.claimEnd st e =
        (if s.scan = .scanning x.cond.cell e then
            (s.dropEntry e x.cond.cell).moveOn x.cond.cell (successor e (s.watchList x.cond.cell))
          else s.dropEntry e x.cond.cell).endWith e x ⟨st, .none, none, s.now32⟩ := by
  cases h : s.entry e with
  | none => exact .inl (s.claimEnd_free st e h)
  | some x =>
    cases ha : x.isArmed with
    | false => exact .inl (s.claimEnd_ended st e x h ha)
    | true => exact .inr ⟨x, rfl, ha, by simp [State.claimEnd, h, ha]⟩

/-- A claim touches the table, the watch lists, the wake queue, the scan, the deadline list and the completion rings
alone (R49). -/
theorem State.claimEnd_frame (s : State) (st : Status) (e : EntryId) :
    ∃ t w q x l c, s.claimEnd st e =
      { s with table := t, watch := w, wakeQueue := q, scan := x, deadlines := l, crings := c } := by
  rcases s.claimEnd_cases st e with h | ⟨x, -, -, h⟩
  · exact ⟨_, _, _, _, _, _, h⟩
  · rw [h]
    split
    · obtain ⟨n, q, hm⟩ :=
        (s.dropEntry e x.cond.cell).moveOn_frame x.cond.cell (successor e (s.watchList x.cond.cell))
      rw [hm]
      exact ⟨_, _, _, _, _, _, rfl⟩
    · exact ⟨_, _, _, _, _, _, rfl⟩

/-- A claim of several entries has the frame of a claim (R49). -/
theorem State.claimAll_frame (s : State) (st : Status) (es : List EntryId) :
    ∃ t w q x l c, s.claimAll st es =
      { s with table := t, watch := w, wakeQueue := q, scan := x, deadlines := l, crings := c } := by
  induction es generalizing s with
  | nil => exact ⟨_, _, _, _, _, _, rfl⟩
  | cons e es ih =>
    obtain ⟨t, w, q, x, l, c, h⟩ := s.claimEnd_frame st e
    obtain ⟨t', w', q', x', l', c', h'⟩ := ih (s.claimEnd st e)
    refine ⟨t', w', q', x', l', c', ?_⟩
    rw [show s.claimAll st (e :: es) = (s.claimEnd st e).claimAll st es from rfl, h', h]

/-- What a claim leaves in the table: an ARMED entry becomes ENDING with the claim's result, and every other entry is
as it was (R49, R53). -/
theorem State.entry_claimEnd (s : State) (st : Status) (e i : EntryId) :
    (s.claimEnd st e).entry i =
      if e = i then (s.entry i).map (fun x =>
        if x.isArmed then { x with state := .ending ⟨st, .none, none, s.now32⟩ } else x)
      else s.entry i := by
  rcases s.claimEnd_cases st e with h | ⟨x, hx, ha, h⟩
  · rw [h]
    split
    · next he =>
      subst he
      cases hx : s.entry e with
      | none => rfl
      | some x =>
        cases ha : x.isArmed with
        | false => simp [ha]
        | true =>
          exfalso
          have h2 := congrArg (fun t => t.entry e) h
          simp only [State.claimEnd, hx, ha, if_true] at h2
          rw [State.endWith, State.joinList_entry, State.entry_setEntry_self] at h2
          simp only [Option.some.injEq] at h2
          rw [← h2] at ha
          simp [HoldEntry.isArmed] at ha
    · rfl
  · rw [h, State.endWith, State.joinList_entry, State.entry_setEntry]
    split
    · next he => subst he; simp [hx, ha]
    · split
      · obtain ⟨n, q, hm⟩ :=
          (s.dropEntry e x.cond.cell).moveOn_frame x.cond.cell (successor e (s.watchList x.cond.cell))
        rw [hm]
        rfl
      · rfl

/-! ### Starting requests and fences (R110, R115) -/

/-- Starting a request touches the contexts, the completion rings and, for a CANCEL, what a claim touches. -/
theorem State.startRequest_frame (s : State) (r : RingId) (q : Request) :
    ∃ t w k x l c y, s.startRequest r q =
      { s with table := t, watch := w, wakeQueue := k, scan := x, deadlines := l, crings := c, contexts := y } := by
  unfold State.startRequest
  split
  case h_1 =>
    obtain ⟨x, y, h⟩ := s.finish_frame r q.header.quiet (q.header.report .ok .none none 0 s.now32)
    rw [h]
    exact ⟨_, _, _, _, _, _, _, rfl⟩
  case h_6 value mask _ =>
    unfold State.runCancel
    dsimp only
    obtain ⟨t, w, k, x, l, c, h⟩ := s.claimAll_frame .cancelled (s.cancelMatches [r] value mask)
    obtain ⟨y, z, h'⟩ := (s.claimAll .cancelled (s.cancelMatches [r] value mask)).finish_frame r q.header.quiet
      (q.header.report .ok .none none (s.cancelMatches [r] value mask).length s.now32)
    rw [h', h]
    exact ⟨_, _, _, _, _, _, _, rfl⟩
  all_goals exact ⟨_, _, _, _, _, _, _, rfl⟩

/-- The opening of a fence has the frame of a start (R115). -/
theorem State.releaseFence_frame (s : State) (r : RingId) :
    ∃ t w k x l c y, s.releaseFence r =
      { s with table := t, watch := w, wakeQueue := k, scan := x, deadlines := l, crings := c, contexts := y } := by
  unfold State.releaseFence
  repeat' split
  case h_1.isTrue => exact s.startRequest_frame r _
  all_goals exact ⟨_, _, _, _, _, _, _, rfl⟩

theorem State.releaseFences_frame (s : State) (rs : List RingId) :
    ∃ t w k x l c y, s.releaseFences rs =
      { s with table := t, watch := w, wakeQueue := k, scan := x, deadlines := l, crings := c, contexts := y } := by
  induction rs generalizing s with
  | nil => exact ⟨_, _, _, _, _, _, _, rfl⟩
  | cons r rs ih =>
    obtain ⟨t, w, k, x, l, c, y, h⟩ := s.releaseFence_frame r
    obtain ⟨t', w', k', x', l', c', y', h'⟩ := ih (s.releaseFence r)
    refine ⟨t', w', k', x', l', c', y', ?_⟩
    rw [show s.releaseFences (r :: rs) = (s.releaseFence r).releaseFences rs from rfl, h', h]

/-- A ring without a request in WAIT_FENCE has no fence to open. -/
theorem State.releaseFence_idle (s : State) (r : RingId) (h : ∀ q, (s.ctx r).work ≠ .waitFence q) :
    s.releaseFence r = s := by
  unfold State.releaseFence
  split
  · next q hq => exact absurd hq (h q)
  · rfl

/-! ### Returns of reads (R171, R172) -/

/-- Everything a returned fault can do: release the place, and hand a taken return to its owner (Table 9-1). -/
theorem State.returnFault_cases (s : State) (p : PlaceId) (x : Read) :
    (s.returnTaken x = false ∧ s.returnFault p x = s.release p) ∨
    (s.returnTaken x = true ∧
      ((∃ r, x.owner = .fetch r ∧ s.returnFault p x = (s.release p).fetchFault r) ∨
       (x.owner = .adminFetch ∧ s.returnFault p x = (s.release p).adminFetchFault) ∨
       (∃ r, x.owner = .bulk r ∧ s.returnFault p x = (s.release p).bulkFault r))) := by
  unfold State.returnFault
  cases h : s.returnTaken x with
  | false => simp
  | true =>
    cases ho : x.owner with
    | fetch r => simp
    | adminFetch => simp
    | bulk r => simp

/-- Arrivals keep the length of a buffer (R104). -/
theorem length_arriveSlots (b : List (Option Slot)) (k : Nat) (data : List Slot) :
    (arriveSlots b k data).length = b.length := by
  induction data generalizing b k with
  | nil => rfl
  | cons x xs ih => rw [arriveSlots, ih, List.length_set]

/-! ### Insertion into the deadline list (R78) -/

/-- Insertion adds the entry and keeps the others in their order. -/
theorem insertByKey_perm (key : EntryId → Nat) (k : Nat) (e : EntryId) (l : List EntryId) :
    (insertByKey key k e l).Perm (e :: l) := by
  induction l with
  | nil => exact .refl _
  | cons x xs ih =>
    unfold insertByKey
    split
    · exact (ih.cons x).trans (.swap e x xs)
    · exact .refl _

end Sys2Proof.Machine
end

