-- ==== Sys2Proof/Tests/Slice0.lean ====
section
/-! SUPPORT. Tests: the well-formedness checks, one or two small tests of each command with results taken from the spec,
and for each statement with hypotheses a theorem that shows states and operands that meet them. -/

namespace Sys2Proof.Tests

set_option Elab.async false

open Sys2Proof Sys2Proof.Machine

/-! ### Helpers -/

/-- The state after a command. -/
def after (c : Instr) (s : State) : State :=
  match exec c s with
  | .next t => t
  | _ => s

/-- A slot with little-endian fields at byte offsets. -/
def slotOf : List (Nat × Nat) → Slot
  | [] => 0
  | (o, v) :: fs => slotOf fs ||| (BitVec.ofNat 512 v <<< (8 * o))

/-- A word for INDEX POST (Table 11-13). -/
def post (sel index : Nat) : Word32 := BitVec.ofNat 32 (sel * 65536 + index)

/-- A cell value from its lanes. -/
def cell (l1 l0 : Nat) : CellValue := BitVec.ofNat 128 (l1 * 2 ^ 64 + l0)

/-- The device in RUNNING with an empty admin ring of 16 slots and every enable on. -/
def up : State := { State.reset with
  device := .running
  cfg := ⟨true, true, true, 3, 0xFEE00000, 0x4020⟩
  admin := ⟨0x10000, 16, 0, 0, 0, []⟩ }

/-- A ring of 16 slots mapped to completion ring 0, weight 2, window C0 to C255, quota 2. -/
def ringItems : RingConfig := ⟨0x20000, 16, 0, 2, 0, 256, 2⟩

/-- Completion ring 0, ACTIVE, 16 records, interrupts on with threshold 2 and holdoff 50. -/
def cring0 : CompletionRing := ⟨true, 0x40000, 16, true, 2, 50, 0, 0, true, 0, none, []⟩

/-- Ring 0 ACTIVE with the slots of a buffer, all published and fetched, and completion ring 0 ACTIVE. -/
def ring0 (buffer : List (Option Slot)) : State :=
  (up.setRing 0 ⟨.active, ringItems, buffer.length, buffer.length, 0, 1, buffer⟩).setCRing 0 cring0

/-- Ring 0 ACTIVE with its context in a work state. -/
def work0 (w : Work) : State := (ring0 []).setWork 0 w

/-- The admin ring with one arrived record. -/
def adminWith (x : Slot) : State := { up with admin := ⟨0x10000, 16, 1, 1, 0, [some x]⟩ }

/-- A state whose Cell Store holds one nonzero cell. -/
def withCell (s : State) (c : Nat) (v : CellValue) : State := { s with mem := writeCell [] c v }

/-- The outcome in ring 0's holder. -/
def report0 (s : State) : Option Report :=
  match (s.ctx 0).work with
  | .reporting o => some o
  | _ => none

/-- The outcome in the admin context. -/
def adminReport (s : State) : Option Report :=
  match s.adminCtx with
  | .reporting o => some o
  | _ => none

/-- A header of an UPDATE with RETURN. -/
def hdr : Header := ⟨2, 7, false, false, true⟩

/-- A header of a HOLD. -/
def hdrHold : Header := ⟨3, 7, false, false, false⟩

/-- "Lane 0 of C5 is at least 1". -/
def atLeast1 : Condition := ⟨5, .lane0, .geu, cell 0 (2 ^ 64 - 1), cell 0 1⟩

/-- "Subtract one from lane 0 of C5": ADD of minus one (R7). -/
def takeOne : Action := ⟨.add, .lane0, 5, cell 0 (2 ^ 64 - 1), 0⟩

/-- An ARMED entry of ring 0 that waits for a count in C5 and takes one, with a deadline. -/
def armedEntry (d : Option Time) : HoldEntry :=
  ⟨.armed, 0, 1, 7, false, false, 0, atLeast1, takeOne, d⟩

/-- An ENDING entry of ring 0. -/
def endingEntry : HoldEntry :=
  { armedEntry none with state := .ending ⟨.ok, ⟨true, false, false⟩, none, 9⟩, tag := 8 }

/-! ### The well-formedness checks -/

theorem test_wf_controlEnable : (Instr.controlEnable 1).wellFormed = true ∧ (Instr.controlEnable 3).wellFormed = false ∧
    (Instr.controlEnable 0).wellFormed = false := by decide

theorem test_wf_controlReset : (Instr.controlReset 3 false).wellFormed = true ∧
    (Instr.controlReset 1 false).wellFormed = false := by decide

theorem test_wf_requestRingProducerPost : (Instr.requestRingProducerPost (post 7 3)).wellFormed = true ∧
    (Instr.requestRingProducerPost (post 9 3)).wellFormed = true ∧
    (Instr.requestRingProducerPost (post 8 3)).wellFormed = false := by decide

theorem test_wf_adminProducerPost : (Instr.adminProducerPost (post 8 3)).wellFormed = true ∧
    (Instr.adminProducerPost (post 7 3)).wellFormed = false := by decide

theorem test_wf_completionConsumerPost : (Instr.completionConsumerPost (post 0x13 3)).wellFormed = true ∧
    (Instr.completionConsumerPost (post 0x18 3)).wellFormed = false := by decide

theorem test_wf_adminCompletionConsumerPost : (Instr.adminCompletionConsumerPost (post 0x18 3)).wellFormed = true ∧
    (Instr.adminCompletionConsumerPost (post 0x10 3)).wellFormed = false := by decide

theorem test_wf_timeLowRead : (Instr.timeLowRead 0x23 1).wellFormed = true ∧
    (Instr.timeLowRead 0x23 2).wellFormed = false ∧ (Instr.timeLowRead 0x20 0).wellFormed = false ∧
    (Instr.timeLowRead 0x40 1).wellFormed = false := by decide

theorem test_wf_registerWriteIgnored : (Instr.registerWriteIgnored 0x04 2 1).wellFormed = true ∧
    (Instr.registerWriteIgnored 0x28 4 1).wellFormed = true ∧ (Instr.registerWriteIgnored 0x04 4 1).wellFormed = false ∧
    (Instr.registerWriteIgnored 0x02 4 1).wellFormed = false ∧
    (Instr.registerWriteIgnored 0x40 4 1).wellFormed = false := by decide

theorem test_wf_fetchReadReturn : (Instr.fetchReadReturn 0 [0, 0, 0, 0]).wellFormed = true ∧
    (Instr.fetchReadReturn 0 []).wellFormed = false ∧ (Instr.fetchReadReturn 0 [0, 0, 0, 0, 0]).wellFormed = false := by
  decide

theorem test_wf_adminFetchReturn : (Instr.adminFetchReturn 0 [0, 0]).wellFormed = true ∧
    (Instr.adminFetchReturn 0 [0, 0, 0]).wellFormed = false := by decide

theorem test_wf_bulkDataReturn : (Instr.bulkDataReturn 0 (List.replicate 64 0)).wellFormed = true ∧
    (Instr.bulkDataReturn 0 (List.replicate 65 0)).wellFormed = false := by decide

/-! ### Tests of the commands -/

/-- R168: a power-on reset zeroes the cells, and the device is in IDLE. -/
theorem test_powerOnReset : (after .powerOnReset (withCell up 5 9)).mem = [] ∧
    (after .powerOnReset (withCell up 5 9)).device = .idle := by decide +kernel

/-- R175, R176: the queue is emptied and the bus master and message enables are cleared. -/
theorem test_linkReset : (after (.linkReset false) { up with postq := [.bulkData 0 [1]] }).postq = [] ∧
    (after (.linkReset false) up).cfg = ⟨false, true, false, 0, 0xFEE00000, 0x4020⟩ ∧
    (after (.linkReset false) up).device = .resetting := by decide +kernel

/-- R150: the six lowest bits of ADMIN BASE LOW count as zero. -/
theorem test_controlEnable :
    (after (.controlEnable 1) { State.reset with adminBaseLow := 0x1007F, adminBaseHigh := 2, adminSize := 16 }).admin =
      ⟨0x200010040, 16, 0, 0, 0, []⟩ := by decide +kernel

/-- R162: ENABLE with ADMIN SIZE 24 sets CONFIG_ERROR and stays in IDLE. -/
theorem test_controlEnable_size : (after (.controlEnable 1) { State.reset with adminSize := 24 }).fault.configError = true ∧
    (after (.controlEnable 1) { State.reset with adminSize := 24 }).device = .idle := by decide +kernel

/-- R164: with both bits written as one, RESET acts. -/
theorem test_controlReset : (after (.controlReset 3 false) up).device = .resetting := by decide +kernel

/-- R1, R75: the end of RESETTING keeps the cells and sets the time base to 0. -/
theorem test_resetValuesTaken :
    readCell (after .resetValuesTaken { withCell up 5 9 with device := .resetting, timeBase := 77 }).mem 5 = 9 ∧
    (after .resetValuesTaken { up with device := .resetting, timeBase := 77 }).timeBase = 0 := by decide +kernel

/-- R166: a bit written as 1 is cleared, a bit written as 0 keeps its value. -/
theorem test_faultWrite : (after (.faultWrite 2) { up with fault := ⟨true, true, true⟩ }).fault = ⟨true, false, true⟩ := by
  decide +kernel

/-- R150, R166: outside IDLE the write is ignored, CONFIG_ERROR is set, and a message on vector 0 is sent. -/
theorem test_adminBaseLowWrite : (after (.adminBaseLowWrite 64) up).adminBaseLow = 0 ∧
    (after (.adminBaseLowWrite 64) up).fault = ⟨false, false, true⟩ ∧
    (after (.adminBaseLowWrite 64) up).postq = [.message ⟨0xFEE00000, 0x4020⟩] := by decide +kernel

/-- R150: the register is written in IDLE. -/
theorem test_adminBaseHighWrite : (after (.adminBaseHighWrite 5) State.reset).adminBaseHigh = 5 := by decide +kernel

/-- R150: the register is written in IDLE, whatever the value. -/
theorem test_adminSizeWrite : (after (.adminSizeWrite 17) State.reset).adminSize = 17 := by decide +kernel

/-- R100: a post publishes slots up to size - 1. -/
theorem test_requestRingProducerPost :
    ((after (.requestRingProducerPost (post 0 15)) (ring0 [])).ring 0).producer = 15 := by decide +kernel

/-- R100: an index equal to the size is refused. -/
theorem test_requestRingProducerPost_size :
    ((after (.requestRingProducerPost (post 0 16)) (ring0 [])).ring 0).producer = 0 ∧
    (after (.requestRingProducerPost (post 0 16)) (ring0 [])).fault.postError = true := by decide +kernel

/-- R151: a post that would withdraw the fetched slot is refused. -/
theorem test_adminProducerPost : (after (.adminProducerPost (post 8 3)) (adminWith 0)).admin.producer = 3 ∧
    (after (.adminProducerPost (post 8 0)) (adminWith 0)).fault.postError = true := by decide +kernel

/-- R138: a post up to the producer index is taken, one past it is refused. -/
theorem test_completionConsumerPost :
    ((after (.completionConsumerPost (post 0x10 3)) (up.setCRing 0 { cring0 with producer := 3 })).cring 0).consumer = 3 ∧
    (after (.completionConsumerPost (post 0x10 4)) (up.setCRing 0 { cring0 with producer := 3 })).fault.postError = true :=
  by decide +kernel

/-- R138, R178: the admin completion area has N records. -/
theorem test_adminCompletionConsumerPost :
    (after (.adminCompletionConsumerPost (post 0x18 1)) { up with adminArea := ⟨2, 0, true, []⟩ }).adminArea.consumer = 1 := by
  decide +kernel

/-- R179: bytes 1 and 2 of the low half, and the high 16 bits in the snapshot. -/
theorem test_timeLowRead :
    (after (.timeLowRead 0x21 2) { up with timeBase := 0x123456789ABC }).link = [.reply [0x9A, 0x78]] ∧
    (after (.timeLowRead 0x21 2) { up with timeBase := 0x123456789ABC }).timeSnapshot = 0x1234 := by decide +kernel

/-- R181: the reply of a read of STATUS (RUNNING) follows the posted write handed over before it. -/
theorem test_statusRead :
    let s := { up with postq := [.bulkData 0 [1]] }
    (after (.timeLowRead 0x08 4) s).link = [] ∧
    (after .postedWriteDepart (after (.timeLowRead 0x08 4) s)).link =
      [.posted (.bulkData 0 [1]), .reply [1, 0, 0, 0]] := by decide +kernel

/-- R177: a write of two bytes to CONTROL and a write to IDENT do nothing. -/
theorem test_registerWriteIgnored : after (.registerWriteIgnored 0x04 2 2) up = up ∧
    after (.registerWriteIgnored 0x00 4 2) up = up := by decide +kernel

/-- R75: the time base wraps from 2^48 - 1 to 0. -/
theorem test_microsecondTick : (after .microsecondTick { up with timeBase := 0xFFFFFFFFFFFF }).timeBase = 0 := by
  decide +kernel

/-- R76: the hold with deadline 0x100 has not expired at time 0xFFFFFFFFFFFF and has at time 0x100. -/
theorem test_expiry :
    let s := { up with table := up.table.set 0 (some (armedEntry (some 0x100))), watch := [(5, [0])], deadlines := [0] }
    (after .expiry { s with timeBase := 0xFFFFFFFFFFFF }).deadlines = [0] ∧
    (after .expiry { s with timeBase := 0x100 }).entry 0 = some { armedEntry (some 0x100) with
      state := .ending ⟨.timeout, ⟨false, false, false⟩, none, 0x100⟩ } := by decide +kernel

/-- R43: a waiting hold ends TIMEOUT in its context. -/
theorem test_waitEntryTimeout :
    (report0 (after (.waitEntryTimeout 0) { work0 (.waitEntry ⟨hdrHold, .hold takeOne atLeast1 4⟩ (some 30) false) with
      timeBase := 30 })).map (·.status) = some .timeout := by decide +kernel

/-- R146, R147: the message of completion ring 0 goes out on vector 1, and the count is cleared. -/
theorem test_holdoffExpiry :
    (after (.holdoffExpiry 0) (up.setCRing 0 { cring0 with unsignalled := 1, timer := some 0 })).postq =
      [.message ⟨0xFEE00000, 0x4021⟩] ∧
    ((after (.holdoffExpiry 0) (up.setCRing 0 { cring0 with unsignalled := 1, timer := some 0 })).cring 0).unsignalled = 0 :=
  by decide +kernel

/-- R170: data that comes after 50,000 ticks is dropped. -/
theorem test_lateData :
    let s := (ring0 [none]).setPlace 3 (some ⟨.fetch 0, 0, 64, 0, 1, true, 50000⟩)
    after (.fetchReadReturn 3 [5]) s = s := by decide +kernel

/-- R170: a read returns a fault after 50,000 ticks and not before. -/
theorem test_readTimeout :
    ((after (.readTimeout 3) ((ring0 []).setPlace 3 (some ⟨.fetch 0, 0, 64, 0, 1, true, 49999⟩))).place 3).isSome = true ∧
    ((after (.readTimeout 3) ((ring0 []).setPlace 3 (some ⟨.fetch 0, 0, 64, 0, 1, true, 50000⟩))).ring 0).state = .faulted :=
  by decide +kernel

/-- R103: a read stops at the last slot of the ring and the fetch index wraps. -/
theorem test_fetchReadIssue :
    let s := up.setRing 0 ⟨.active, ringItems, 2, 14, 14, 1, []⟩
    (after .fetchReadIssue s).place 0 = some ⟨.fetch 0, 0x20000 + 64 * 14, 128, 14, 1, true, 0⟩ ∧
    ((after .fetchReadIssue s).ring 0).fetch = 0 := by decide +kernel

/-- R104: the data becomes arrived at its place of the buffer. -/
theorem test_fetchReadReturn :
    ((after (.fetchReadReturn 2 [5]) ((ring0 [none, none]).setPlace 2 (some ⟨.fetch 0, 0, 64, 1, 1, true, 0⟩))).ring 0).buffer =
      [none, some 5] := by decide +kernel

/-- R105: the ring is FAULTED, its fetch index set back, and a fetch event pends with the time of the fault. -/
theorem test_fetchReadFault :
    let s := after (.fetchReadFault 2) ({ ring0 [none, none] with timeBase := 40 }.setPlace 2
      (some ⟨.fetch 0, 0, 128, 0, 1, true, 0⟩))
    (s.ring 0).state = .faulted ∧ (s.ring 0).fetch = 0 ∧ (s.ctx 0).event = some 40 := by decide +kernel

/-- R152: the admin data becomes arrived. -/
theorem test_adminFetchReturn :
    (after (.adminFetchReturn 2 [5]) { up.setPlace 2 (some ⟨.adminFetch, 0, 64, 0, 0, true, 0⟩) with
      admin := ⟨0x10000, 16, 1, 1, 0, [none]⟩ }).admin.buffer = [some 5] := by decide +kernel

/-- R163: the device halts with ADMIN_FETCH set. -/
theorem test_adminFetchReadFault :
    let s := after (.adminFetchReadFault 2) (up.setPlace 2 (some ⟨.adminFetch, 0, 64, 0, 0, true, 0⟩))
    s.device = .halted ∧ s.fault = ⟨true, false, false⟩ := by decide +kernel

/-- R123: one read of 16 n bytes from h. -/
theorem test_bulkDataReadIssue :
    (after .bulkDataReadIssue (work0 (.loading ⟨hdr, .bulkWrite 0 3 0x900⟩ false))).place 0 =
      some ⟨.bulk 0, 0x900, 48, 0, 1, true, 0⟩ := by decide +kernel

/-- R124: the bytes enter the staging buffer in order and the context enters RUNNING. -/
theorem test_bulkDataReturn :
    let s := after (.bulkDataReturn 1 [7, 8]) ((work0 (.loading ⟨hdr, .bulkWrite 0 2 0x900⟩ true)).setPlace 1
      (some ⟨.bulk 0, 0x900, 32, 0, 1, true, 0⟩))
    readCell (s.ctx 0).staging 1 = 8 ∧ (s.ctx 0).work = .running ⟨hdr, .bulkWrite 0 2 0x900⟩ := by decide +kernel

/-- R126: the BULK WRITE ends READ_FAULT. -/
theorem test_bulkDataFault :
    (report0 (after (.bulkDataFault 1) ((work0 (.loading ⟨hdr, .bulkWrite 0 2 0x900⟩ true)).setPlace 1
      (some ⟨.bulk 0, 0x900, 32, 0, 1, true, 0⟩)))).map (·.status) = some .readFault := by decide +kernel

/-- R114: a NOP ends OK with its tag (Table 11-1), and silently with QUIET. -/
theorem test_nop :
    report0 (after (.nop 0) (ring0 [some (slotOf [(0, 1), (4, 0x1234)])])) =
      some ⟨.ok, 1, 0x1234, ⟨false, false, false⟩, none, 0, 0⟩ ∧
    ((after (.nop 0) (ring0 [some (slotOf [(0, 1), (1, 2)])])).ctx 0).work = .empty := by decide +kernel

/-- R31, R183: a continuation marker in the place of a kind is unknown, and the unknown code is echoed. -/
theorem test_unknownKind : report0 (after (.unknownKind 0) (ring0 [some (slotOf [(0, 0x3C), (4, 9)])])) =
    some ⟨.badRequest, 0x3C, 9, ⟨false, false, false⟩, none, 0, 0⟩ := by decide +kernel

/-- R31, R32: SWAP under PAIR is BAD_REQUEST even for a cell outside the window; STORE there is DENIED. -/
theorem test_update :
    (report0 (after (.update 0) (ring0 [some (slotOf [(0, 2), (2, 7), (3, 2), (6, 300)])]))).map (·.status) = some .badRequest ∧
    (report0 (after (.update 0) (ring0 [some (slotOf [(0, 2), (2, 1), (3, 3), (6, 256)])]))).map (·.status) = some .denied := by
  decide +kernel

/-- R9, the example: MERGE under LANE0 of 0x1234 with A 0xABCD and B 0x00FF gives 0x12CD and sets CHANGED. -/
theorem test_updateOperation_merge :
    let s := after (.updateOperation 0) (withCell (work0 (.running ⟨hdr, .update ⟨.merge, .lane0, 5, 0xABCD, 0xFF⟩⟩)) 5 0x1234)
    readCell s.mem 5 = 0x12CD ∧ report0 s = some ⟨.ok, 2, 7, ⟨true, false, false⟩, some 0x1234, 1, 0⟩ := by decide +kernel

/-- R7: under PAIR a carry out of lane 0 does not enter lane 1, and sets WRAP. -/
theorem test_updateOperation_pair :
    let s := after (.updateOperation 0) (withCell (work0 (.running ⟨hdr, .update ⟨.add, .pair, 5, cell 2 1, 0⟩⟩)) 5
      (cell 3 (2 ^ 64 - 1)))
    readCell s.mem 5 = cell 5 0 ∧ (report0 s).map (·.flags) = some ⟨true, true, false⟩ := by decide +kernel

/-- R109: a HOLD is taken with both slots (Tables 11-1 and 11-2). -/
theorem test_hold :
    let s := after (.hold 0) (ring0 [some (slotOf [(0, 3), (2, 2), (4, 7), (6, 5), (32, 2 ^ 64 - 1)]),
      some (slotOf [(0, 0x3C), (1, 2), (2, 0), (4, 500), (8, 5), (32, 2 ^ 64 - 1), (48, 1)])])
    (s.ctx 0).work = .running ⟨hdrHold, .hold takeOne atLeast1 500⟩ ∧ (s.ring 0).consumer = 2 := by decide +kernel

/-- R29, R38: a false hold is armed in H0 with deadline now plus timeout. -/
theorem test_holdArrival :
    (after (.holdArrival 0) { work0 (.running ⟨hdrHold, .hold takeOne atLeast1 500⟩) with timeBase := 100 }).entry 0 =
      some (armedEntry (some 600)) := by decide +kernel

/-- R37: with timeout 0 it ends NOT_MET, with the watched cell when RETURN is set. -/
theorem test_holdArrival_notMet :
    report0 (after (.holdArrival 0) (withCell (work0 (.running ⟨⟨3, 7, false, false, true⟩, .hold takeOne atLeast1 0⟩)) 5
      (cell 4 0))) = some ⟨.notMet, 3, 7, ⟨false, false, false⟩, some (cell 4 0), 0, 0⟩ := by decide +kernel

/-- R42: a retry whose condition holds performs the action. -/
theorem test_holdRetry :
    let s := after (.holdRetry 0) (withCell (work0 (.waitEntry ⟨hdrHold, .hold takeOne atLeast1 4⟩ none true)) 5 3)
    readCell s.mem 5 = 2 ∧ (report0 s).map (·.count) = some 1 := by decide +kernel

/-- R64, R67: the entry at the position fires, becomes ENDING, and the scan of the emptied list ends. -/
theorem test_scanStep :
    let s := after .scanStep { withCell (ring0 []) 5 1 with
      table := up.table.set 0 (some (armedEntry none)), watch := [(5, [0])], scan := .scanning 5 0 }
    readCell s.mem 5 = 0 ∧ s.scan = .idle ∧ s.watch = [] ∧ (s.cring 0).list = [.entry 0] := by decide +kernel

/-- R119: a BULK READ starts with k = 0. -/
theorem test_bulkRead :
    ((after (.bulkRead 0) (ring0 [some (slotOf [(0, 4), (6, 200), (8, 56), (16, 0x5000)])])).ctx 0).work =
      .running ⟨⟨4, 0, false, false, false⟩, .bulkRead 200 56 0x5000⟩ := by decide +kernel

/-- R121: the last cell hands over the staged cells as one write. -/
theorem test_bulkReadCell :
    (after (.bulkReadCell 0) (withCell (work0 (.running ⟨hdr, .bulkRead 5 1 0x900⟩)) 5 3)).postq = [.bulkData 0x900 [3]] := by
  decide +kernel

/-- R121, R174: the last cell waits while a held message waits for the free place. -/
theorem test_bulkReadCell_held :
    let s := { work0 (.running ⟨hdr, .bulkRead 5 1 0x900⟩) with held := up.held.set 2 (some ⟨0, 2⟩) }
    after (.bulkReadCell 0) s = s := by decide +kernel

/-- R123: a BULK WRITE waits in LOADING with its read not issued. -/
theorem test_bulkWrite :
    ((after (.bulkWrite 0) (ring0 [some (slotOf [(0, 5), (8, 2), (16, 0x5000)])])).ctx 0).work =
      .loading ⟨⟨5, 0, false, false, false⟩, .bulkWrite 0 2 0x5000⟩ false := by decide +kernel

/-- R125: the staged value is stored and k rises. -/
theorem test_bulkWriteCell :
    let s := after (.bulkWriteCell 0) ((work0 .empty).setCtx 0
      ⟨.running ⟨hdr, .bulkWrite 4 3 0⟩, none, writeCells [] 0 [6, 7, 8], 1, false⟩)
    readCell s.mem 5 = 7 ∧ (s.ctx 0).progress = 2 ∧ (s.ctx 0).changedMark = true := by decide +kernel

/-- R84: a match mask of 0xFF00 ends the entry whose tag has the same high byte; the outcome follows it. -/
theorem test_cancel :
    let s := after (.cancel 0) { ring0 [some (slotOf [(0, 6), (32, 0x0055), (48, 0xFF00)])] with
      table := up.table.set 0 (some (armedEntry none)), watch := [(5, [0])] }
    (report0 s).map (·.count) = some 1 ∧ (s.cring 0).list = [.entry 0, .ring 0] := by decide +kernel

/-- R106: the fetch event enters the free holder with the end time of the fault. -/
theorem test_fetchEventEntry :
    report0 (after (.fetchEventEntry 0) ((work0 .empty).setCtx 0 ⟨.empty, some 44, [], 0, false⟩)) =
      some ⟨.readFault, 0, 0, ⟨false, false, false⟩, none, 0, 44⟩ := by decide +kernel

/-- R96: the last of the two conditions makes the ring STOPPED. -/
theorem test_drainEnd :
    ((after (.drainEnd 0) (up.setRing 0 ⟨.draining, ringItems, 0, 0, 0, 1, []⟩)).ring 0).state = .stopped := by decide +kernel

/-- R136, R140: a record of ring 0 in slot 2 of its completion ring (Table 11-4). -/
theorem test_completionRecordWrite :
    let s := (work0 (.reporting ⟨.notMet, 3, 0x0807, ⟨false, false, false⟩, none, 0, 0x44332211⟩)).setCRing 0
      { cring0 with producer := 2, list := [.ring 0] }
    (after (.completionRecordWrite (.ring 0)) s).postq = [.record 0x40040 0x44332211000000000807000000030101] := by
  decide +kernel

/-- R174: while the admin completion area can write, the record of a completion ring waits, with 14 places free too. -/
theorem test_completionRecordWrite_order :
    let s := { (work0 (.reporting ⟨.notMet, 3, 7, ⟨false, false, false⟩, none, 0, 0⟩)).setCRing 0
      { cring0 with list := [.ring 0] } with
        postq := [.bulkData 0 [1], .bulkData 0 [2]]
        adminCtx := .reporting ⟨.ok, 0x41, 3, ⟨false, false, false⟩, none, 0, 0⟩, adminArea := ⟨0, 0, true, [.admin]⟩ }
    after (.completionRecordWrite (.ring 0)) s = s ∧
    (after (.completionRecordWrite (.ring 0)) (after (.completionRecordWrite .admin) s)).postq.length = 5 := by decide +kernel

/-- R174: the held message of the lowest vector takes the free place. -/
theorem test_heldMessageRelease :
    (after .heldMessageRelease { up with held := (up.held.set 3 (some ⟨0, 3⟩)).set 1 (some ⟨0, 1⟩) }).postq =
      [.message ⟨0, 1⟩] := by decide +kernel

/-- R174: a message handed over finds the held one of another vector ahead of it. -/
theorem test_sendMessage_held :
    (State.sendMessage { up with held := up.held.set 3 (some ⟨0, 3⟩) } 1).postq =
      [.message ⟨0, 3⟩, .message ⟨0xFEE00000, 0x4021⟩] := by decide +kernel

/-- R176: with message-signalled interrupts disabled a message is dropped when it reaches the head of the queue, and is
not held for a later enable. -/
theorem test_postedWriteDepart :
    let s := { up with cfg := ⟨true, true, false, 0, 0, 0⟩, postq := [.bulkData 0 [1], .message ⟨0, 1⟩] }
    (after .postedWriteDepart s).postq = [] ∧ (after .postedWriteDepart s).link = [.posted (.bulkData 0 [1])] ∧
    ({ up with cfg := ⟨true, true, false, 0, 0, 0⟩ }.sendMessage 1).postq = [] := by decide +kernel

/-- R155: an admin NOP ends OK. -/
theorem test_adminNop : adminReport (after .adminNop (adminWith (slotOf [(0, 0x41), (4, 3)]))) =
    some ⟨.ok, 0x41, 3, ⟨false, false, false⟩, none, 0, 0⟩ := by decide +kernel

/-- R34: the HOLD kind is unknown on the admin ring. -/
theorem test_adminUnknownKind : (adminReport (after .adminUnknownKind (adminWith (slotOf [(0, 3)])))).map (·.status) =
    some .badRequest := by decide +kernel

/-- R93, R184: the ring is READY with the items of the request and generation 1. -/
theorem test_configureRequestRing :
    (after .configureRequestRing (adminWith (slotOf [(0, 0x42), (8, 2), (9, 3), (10, 8), (12, 4096), (14, 256),
      (16, 0x123440), (24, 4000), (26, 96)]))).ring 2 = ⟨.ready, ⟨0x123440, 4096, 3, 8, 4000, 96, 256⟩, 0, 0, 0, 1, []⟩ := by
  decide +kernel

/-- R156: a size that is no power of two is BAD_CONFIG. -/
theorem test_configureRequestRing_size :
    (adminReport (after .configureRequestRing (adminWith (slotOf [(0, 0x42), (10, 1), (12, 48), (26, 1)])))).map (·.status) =
      some .badConfig := by decide +kernel

/-- R131, R184: the ring is ACTIVE with phase 1 and keeps its outcome list. -/
theorem test_configureCompletionRing :
    (after .configureCompletionRing ((adminWith (slotOf [(0, 0x43), (8, 1), (9, 1), (10, 64), (12, 16), (14, 9),
      (16, 0x20)])).setCRing 1 { CompletionRing.reset with list := [.ring 4] })).cring 1 =
        ⟨true, 0x20, 16, true, 64, 9, 0, 0, true, 0, none, [.ring 4]⟩ := by decide +kernel

/-- R94: a START of an UNCONFIGURED ring ends RING_STATE; a STOPPED ring becomes ACTIVE. -/
theorem test_startRing :
    (adminReport (after .startRing (adminWith (slotOf [(0, 0x44), (8, 7)])))).map (·.status) = some .ringState ∧
    ((after .startRing ((adminWith (slotOf [(0, 0x44), (8, 7)])).setRing 7 ⟨.stopped, ringItems, 3, 2, 2, 1, []⟩)).ring 7).state =
      .active := by decide +kernel

/-- R95: the fetch index goes back to the consumer index and the buffer is discarded. -/
theorem test_stopRing :
    (after .stopRing ((adminWith (slotOf [(0, 0x45), (8, 7)])).setRing 7 ⟨.active, ringItems, 3, 3, 2, 1, [some 0]⟩)).ring 7 =
      ⟨.stopped, ringItems, 3, 2, 2, 1, []⟩ := by decide +kernel

/-- R97, R98, R127: a bulk request in RUNNING ends ABORTED with its progress as count. -/
theorem test_resetRing :
    let s := after .resetRing ((adminWith (slotOf [(0, 0x46), (8, 0)])).setRing 0
      ⟨.faulted, ringItems, 3, 2, 2, 255, []⟩ |>.setCtx 0 ⟨.running ⟨hdr, .bulkWrite 0 5 0⟩, none, [], 3, true⟩)
    s.ring 0 = ⟨.ready, ringItems, 0, 0, 0, 0, []⟩ ∧
    report0 s = some ⟨.aborted, 2, 7, ⟨true, false, false⟩, none, 3, 0⟩ := by decide +kernel

/-- R52, R133: the ENDING entry on the list becomes FREE without a record. -/
theorem test_resetCompletionRing :
    let s := after .resetCompletionRing { (adminWith (slotOf [(0, 0x47), (8, 0)])).setCRing 0
      { cring0 with list := [.entry 1] } with table := up.table.set 1 (some endingEntry), occupancy := up.occupancy.set 0 1 }
    s.entry 1 = none ∧ s.occ 0 = 0 ∧ (s.cring 0).active = false ∧ s.postq = [] := by decide +kernel

/-- R86: CANCEL HOLDS over all rings reaches a hold in WAIT_ENTRY too. -/
theorem test_cancelHolds :
    let s := after .cancelHolds ((adminWith (slotOf [(0, 0x48), (8, 0xFF), (32, 7), (48, 0xFFFF)])).setWork 0
      (.waitEntry ⟨hdrHold, .hold takeOne atLeast1 4⟩ none false))
    (report0 s).map (·.status) = some .cancelled ∧ (adminReport s).map (·.count) = some 1 := by decide +kernel

/-- R129: a run past C4095 is BAD_CONFIG, a run up to it enters RUNNING. -/
theorem test_clearCells :
    (adminReport (after .clearCells (adminWith (slotOf [(0, 0x49), (6, 4000), (8, 97)])))).map (·.status) = some .badConfig ∧
    (after .clearCells (adminWith (slotOf [(0, 0x49), (6, 4000), (8, 96)]))).adminCtx = .running 0x49 0 4000 96 0 false := by
  decide +kernel

/-- R129: the last cell ends the request OK with CHANGED equal to the mark. -/
theorem test_clearCellsCell :
    let s := after .clearCellsCell { withCell up 5 3 with adminCtx := .running 0x49 0 4 2 1 false }
    s.mem = [] ∧ adminReport s = some ⟨.ok, 0x49, 0, ⟨true, false, false⟩, none, 2, 0⟩ := by decide +kernel

/-- R160, Table 11-5: the value of ring 0, ACTIVE with producer index 1, generation 1 and occupancy 2. -/
theorem test_readStatus :
    ((adminReport (after .readStatus (((adminWith (slotOf [(0, 0x4A), (8, 0x10)])).setRing 0
      ⟨.active, ringItems, 1, 1, 1, 1, []⟩).setOcc 0 2))).bind (·.value)) = some 0x00020001000100010002 := by decide +kernel

/-- R181: with bus mastering disabled a waiting reply is sent at once. -/
theorem test_configurationSpaceWrite :
    (after (.configurationSpaceWrite ⟨false, true, true, 0, 0, 0⟩)
      { up with postq := [.bulkData 0 [1]], replies := [⟨[1], 1, []⟩] }).link = [.reply [1]] := by decide +kernel

/-- Table 1-3: ADD under LANE0. -/
theorem test_add_table : opValue .add (5 : Lane) (-1) 0 = 4 ∧ addWraps (5 : Lane) (-1) = false ∧
    addWraps (0 : Lane) (-1) = true ∧ opValue .add (0 : Lane) (-1) 0 = 0xFFFFFFFFFFFFFFFF ∧
    addWraps (0xFFFFFFFFFFFFFFFF : Lane) 1 = true := by decide

/-- Table 2-2: conditions under LANE0. -/
theorem test_condition_table :
    (⟨0, .lane0, .eq, 0x00F0, 0x00F0⟩ : Condition).holds 0x12F0 = true ∧
    (⟨0, .lane0, .ne, 0x0F00, 0⟩ : Condition).holds 0x12F0 = true ∧
    (⟨0, .lane0, .ltu, 0xFF00, 0x12FF⟩ : Condition).holds 0x1234 = false ∧
    (⟨0, .lane0, .ltu, 0xFF00, 0x13FF⟩ : Condition).holds 0x1234 = true := by decide

/-- R177: IDENT. -/
theorem test_ident : up.readRegister 0 = 0x08C10416 := by decide +kernel

/-! ### A state that meets every law -/

/-- An ARMED entry H0 under scan on C5, whose condition holds; an ENDING entry H1 on the outcome list of completion ring
0; ring 0 with one arrived slot `x`, in ring state `st`; ring 1 waiting for an entry; and one arrived admin slot `ax`. -/
def oneHold (st : RingState) (x ax : Slot) : State := { up with
  pending := [.scanStep]
  timeBase := 40
  mem := [(80, 1)]
  table := (up.table.set 0 (some (armedEntry (some 30)))).set 1 (some endingEntry)
  watch := [(5, [0])]
  deadlines := [0]
  occupancy := up.occupancy.set 0 2
  scan := .scanning 5 0
  rings := up.rings.set 0 ⟨st, ringItems, 1, 1, 0, 1, [some x]⟩
  contexts := up.contexts.set 1
    ⟨.waitEntry ⟨⟨3, 7, false, false, false⟩, .hold takeOne atLeast1 4⟩ none false, none, [], 0, false⟩
  crings := up.crings.set 0 { cring0 with list := [.entry 1] }
  admin := ⟨0x10000, 16, 1, 1, 0, [some ax]⟩ }

theorem oneHold_entry (st x ax) (e : EntryId) : (oneHold st x ax).entry e =
    if e = 0 then some (armedEntry (some 30)) else if e = 1 then some endingEntry else none := by
  revert e
  show ∀ e : EntryId, (((up.table.set 0 (some (armedEntry (some 30)))).set 1 (some endingEntry))[e]) = _
  decide +kernel

theorem oneHold_watchList (st x ax) (c : CellId) : (oneHold st x ax).watchList c = if c = 5 then [0] else [] := by
  show (if 5 = c.val then [0] else []) = _
  by_cases h : c = 5
  · subst h; rfl
  · rw [if_neg h, if_neg (fun h' => h (Fin.ext h'.symm))]

theorem oneHold_armedWith (st x ax) (f : HoldEntry → Bool) (e : EntryId) :
    (oneHold st x ax).armedWith f e = (decide (e = 0) && f (armedEntry (some 30))) := by
  rw [State.armedWith, oneHold_entry]
  by_cases h : e = 0
  · subst h; simp [armedEntry, HoldEntry.isArmed]
  · by_cases h1 : e = 1
    · subst h1; simp [endingEntry, HoldEntry.isArmed]
    · simp [h, h1]

theorem oneHold_list (st x ax) (c : CRingId) :
    ((oneHold st x ax).cring c).list = if c = 0 then [.entry 1] else [] := by
  revert c
  show ∀ c : CRingId, ((up.crings.set 0 { cring0 with list := [.entry 1] })[c]).list = _
  decide +kernel

theorem oneHold_config (st x ax) (r : RingId) :
    ((oneHold st x ax).ring r).config = if r = 0 then ringItems else .zero := by
  fin_cases r <;> rfl

theorem oneHold_work (st x ax) (r : RingId) : ((oneHold st x ax).ctx r).work =
    if r = 1 then .waitEntry ⟨⟨3, 7, false, false, false⟩, .hold takeOne atLeast1 4⟩ none false else .empty := by
  fin_cases r <;> rfl

theorem oneHold_holdLaw (st x ax) : (oneHold st x ax).HoldLaw where
  watchForm := by show sparseWf [] [(5, [(0 : EntryId)])] = true; decide
  watchNodup c := by rw [oneHold_watchList]; split <;> simp
  watchExact c e := by
    rw [oneHold_watchList, oneHold_armedWith]
    by_cases h : c = 5 <;> simp [h, armedEntry, atLeast1, eq_comm]
  deadlineNodup := by show List.Nodup [(0 : EntryId)]; simp
  deadlineExact e := by
    rw [oneHold_armedWith]
    show e ∈ [(0 : EntryId)] ↔ _
    simp [armedEntry]
  occupancyExact := by
    have h : ∀ r, (oneHold st x ax).entriesOf r = if r = 0 then [0, 1] else [] := by
      have h' : ∀ r : RingId, (List.finRange 256).filter (fun e : EntryId =>
        (if e = 0 then some (armedEntry (some 30)) else if e = 1 then some endingEntry else none).any
          (fun x => x.origin = r)) = if r = 0 then [0, 1] else [] := by decide +kernel
      intro r
      rw [← h' r, State.entriesOf]
      simp only [oneHold_entry]
    intro r
    rw [h]
    fin_cases r <;> rfl
  listNodup c := by rw [oneHold_list]; split <;> simp
  listEntry c e := by
    rw [oneHold_list, oneHold_entry]
    by_cases h0 : e = 0
    · subst h0; by_cases hc : c = 0 <;> simp [hc, armedEntry, HoldEntry.isArmed]
    · by_cases h1 : e = 1
      · subst h1; by_cases hc : c = 0 <;> simp [hc, endingEntry, armedEntry, HoldEntry.isArmed, eq_comm]
      · by_cases hc : c = 0 <;> simp [hc, h0, h1]
  listRing c r := by
    rw [oneHold_list, oneHold_work]
    by_cases hr : r = 1 <;> by_cases hc : c = 0 <;> simp [hr, hc, Work.code]
  listNoAdmin c := by rw [oneHold_list]; split <;> simp
  adminList := rfl

theorem oneHold_storeLaw (st x ax) : (oneHold st x ax).StoreLaw where
  cells := by show Memory.wf [(80, 1)] = true; decide
  bound := by
    intro y hy
    change y ∈ [(80, (1 : Byte))] at hy
    simp_all
  staging r := by fin_cases r <;> rfl

theorem oneHold_wakeLaw (st x ax) : (oneHold st x ax).WakeLaw where
  queueNodup := by show List.Nodup ([] : List CellId); simp
  queueWatched c h := by change c ∈ ([] : List CellId) at h; simp at h
  idleEmpty _ := rfl
  position c e h := by
    change Scan.scanning 5 0 = Scan.scanning c e at h
    cases h
    rw [oneHold_watchList]
    simp

theorem oneHold_noLostWakeup (st x ax) : (oneHold st x ax).NoLostWakeup := by
  intro e x' he ha hc
  rw [oneHold_entry] at he
  split at he
  · cases he
    right
    simp_all only [State.scanAhead, oneHold_watchList]
    rfl
  · split at he
    · cases he
      simp [endingEntry, HoldEntry.isArmed] at ha
    · cases he

theorem oneHold_quotaLaw (st x ax) : (oneHold st x ax).QuotaLaw := by
  intro r
  rw [oneHold_config]
  revert r
  show ∀ r : RingId, (up.occupancy.set 0 2)[r] ≤ _
  decide +kernel

theorem ringItems_inRange : ringItems.InRange := ⟨by decide, by decide, by decide, by decide, by decide⟩

theorem oneHold_ringLaw (x ax) : (oneHold .active x ax).RingLaw := by
  intro r
  by_cases hr : r = 0
  · subst hr
    right
    have h : (oneHold .active x ax).ring 0 = ⟨.active, ringItems, 1, 1, 0, 1, [some x]⟩ := rfl
    rw [h]
    exact ⟨by simp, ringItems_inRange, by simp [ringItems], by simp [ringItems], rfl, by simp,
      by simp [ringDistance, ringItems], by simp⟩
  · left
    fin_cases r <;> first | exact absurd rfl hr | rfl

theorem oneHold_cringLaw (st x ax) : (oneHold st x ax).CRingLaw := by
  intro c
  by_cases hc : c = 0
  · subst hc
    right
    have h : (oneHold st x ax).cring 0 = { cring0 with list := [.entry 1] } := rfl
    rw [h]
    exact ⟨rfl, by decide, rfl, by decide, by decide, by decide, by decide, nofun, by decide⟩
  · left
    fin_cases c <;> first | exact absurd rfl hc | rfl

theorem oneHold_queueLaw (st x ax) : (oneHold st x ax).QueueLaw := ⟨Nat.zero_le 16, nofun⟩

theorem oneHold_armedCount (st x ax) : (oneHold st x ax).armedCount 0 = 1 := by
  have h : (List.finRange 256).filter (fun e : EntryId => decide (e = 0)) = [0] := by decide +kernel
  have h' : (oneHold st x ax).armedEntries (fun y => y.origin = 0) = [0] := by
    rw [← h, State.armedEntries]
    congr 1
    funext e
    rw [oneHold_armedWith]
    simp [armedEntry]
  rw [State.armedCount, h']
  rfl

theorem armedCount_of_freeTable {s : State} (h : s.table = .replicate 256 none) (r : RingId) : s.armedCount r = 0 := by
  have h' : s.armedEntries (fun y => y.origin = r) = [] := by
    rw [State.armedEntries]
    simp [State.armedWith, State.entry, h]
  rw [State.armedCount, h']
  rfl

/-! ### Witnesses: what the statements assume can be met -/

/-- A posted-write queue of `n` writes. -/
def queued (n : Nat) : State := { up with postq := List.replicate n (.bulkData 0 [0]) }

theorem witness_StepTakesTheFrontCommand : (oneHold .active 0 0).pending = .scanStep :: [] ∧ up.pending = [] := ⟨rfl, rfl⟩

/-- The step answers a next state. -/
def goesOn (s : State) : Bool :=
  match step s with
  | .next _ => true
  | _ => false

theorem step_next_of_goesOn {s : State} (h : goesOn s = true) : ∃ t, step s = .next t := by
  unfold goesOn at h
  split at h
  · exact ⟨_, ‹_›⟩
  · cases h

/-- A BULK READ of the last 56 cells of a window, and a CLEAR CELLS that ends at C4095. -/
def bulkAtWork : State := { work0 (.running ⟨hdr, .bulkRead 4040 56 0⟩) with
  pending := [.bulkReadCell 0]
  adminCtx := .running 0x49 0 4095 1 0 false }

theorem bulkAtWork_runLaw : bulkAtWork.RunLaw where
  rings r q h := by
    have h0 : ∀ r : RingId, r ≠ 0 → (bulkAtWork.ctx r).work.request = none := by decide +kernel
    by_cases hr : r = 0
    · subst hr
      have h1 : (bulkAtWork.ctx 0).work.request = some ⟨hdr, .bulkRead 4040 56 0⟩ := by decide +kernel
      rw [h1] at h
      cases h
      show 4040 + 56 ≤ 4096
      decide
    · rw [h0 r hr] at h
      cases h
  admin kind tag f n k changed h := by
    change AdminWork.running 0x49 0 4095 1 0 false = _ at h
    cases h
    decide

theorem witness_RunsAtWorkStayInTheStore : bulkAtWork.RunLaw ∧ ∃ t, step bulkAtWork = .next t :=
  ⟨bulkAtWork_runLaw, step_next_of_goesOn (by decide +kernel)⟩

theorem witness_EveryCommandReachesANextState : bulkAtWork.RunLaw := bulkAtWork_runLaw

theorem witness_ResetsGiveTheValuesOfTable84 : { up with device := .resetting }.device = .resetting ∧
    { up with device := .resetting }.portOp = none := ⟨rfl, rfl⟩

theorem witness_ResetEntriesStopTheBlocks : up.cfg.memorySpace = true ∧ (2 : Word32).getLsbD 1 = true ∧
    (3 : Word32).getLsbD 1 = true ∧ up.device ≠ .resetting ∧ (∀ r, up.operationInProgress true ≠ some (.ring r)) ∧
    (work0 (.running ⟨hdr, .update takeOne⟩)).operationInProgress true = some (.ring 0) ∧
    { up with device := .resetting }.device = .resetting := by decide +kernel

theorem witness_AdminRegistersAndEnable : State.reset.cfg.memorySpace = true ∧ State.reset.device = .idle ∧
    up.device ≠ .idle ∧ (1 : Word32).getLsbD 0 = true ∧ (1 : Word32).getLsbD 1 = false ∧
    (16 : Word32).toNat ∈ [16, 32, 64, 128, 256] ∧ (256 : Word32).toNat ∈ [16, 32, 64, 128, 256] ∧
    (15 : Word32).toNat ∉ [16, 32, 64, 128, 256] ∧ (257 : Word32).toNat ∉ [16, 32, 64, 128, 256] := by decide +kernel

theorem witness_FaultBitsAndTheirMessage : { up with fault := ⟨true, false, false⟩ }.fault.get .adminFetch = true ∧
    up.fault.get .adminFetch = false ∧ { up with device := .resetting }.device = .resetting ∧ up.device ≠ .resetting ∧
    (queued 15).postq.length < 16 ∧ 16 ≤ (queued 16).postq.length ∧ (queued 15).postq ≠ [] ∧
    (∀ i : VectorId, (queued 15).held[i] = none) ∧ State.reset.postq = [] ∧ State.reset.cfg.msiEnable = false ∧
    { up with held := up.held.set 2 (some ⟨0, 2⟩) }.held[(2 : VectorId)] ≠ none ∧ up.cfg.memorySpace = true := by
  decide +kernel

/-- Posts to ring 0 with its first slot fetched: the boundaries 1 and 15 are taken, 0 would withdraw, 16 is the size;
and the admin ring likewise; ring 7 is UNCONFIGURED. -/
theorem witness_ProducerPosts :
    let s := { ring0 [none] with admin := ⟨0x10000, 16, 1, 1, 0, [none]⟩ }
    s.cfg.memorySpace = true ∧ s.device = .running ∧
    ((post 7 0).extractLsb' 16 8).toNat = (7 : RingId).val ∧ (s.ring 7).state = .unconfigured ∧
    ((post 0 1).extractLsb' 16 8).toNat = (0 : RingId).val ∧ ((post 0 1).extractLsb' 0 12).toNat = 1 ∧
    (s.ring 0).state ≠ .unconfigured ∧ 15 < (s.ring 0).config.size ∧ (s.ring 0).config.size ≤ 16 ∧
    ((s.ring 0).fetch + 16 - (s.ring 0).consumer) % 16 ≤ (1 + 16 - (s.ring 0).consumer) % 16 ∧
    (0 + 16 - (s.ring 0).consumer) % 16 < ((s.ring 0).fetch + 16 - (s.ring 0).consumer) % 16 ∧
    ((post 8 1).extractLsb' 16 8).toNat = 8 ∧ s.admin.size ≤ 16 ∧ 15 < s.admin.size ∧
    (s.admin.fetch + 16 - s.admin.consumer) % 16 ≤ (1 + 16 - s.admin.consumer) % 16 ∧
    (0 + 16 - s.admin.consumer) % 16 < (s.admin.fetch + 16 - s.admin.consumer) % 16 := by decide +kernel

/-- Posts to completion ring 0 with records 14, 15 and 0 written: 1 is the last taken, 2 the first refused. -/
theorem witness_ConsumerPosts :
    let s := { up.setCRing 0 { cring0 with producer := 1, consumer := 14 } with adminArea := ⟨1, 14, true, []⟩ }
    s.cfg.memorySpace = true ∧ s.device = .running ∧
    ((post 0x10 1).extractLsb' 16 8).toNat = 0x10 + (0 : CRingId).val ∧
    ((post 0x13 0).extractLsb' 16 8).toNat = 0x10 + (3 : CRingId).val ∧ (s.cring 3).active = false ∧
    (s.cring 0).active = true ∧ 15 < (s.cring 0).size ∧ (s.cring 0).size ≤ 16 ∧
    (1 + 16 - (s.cring 0).consumer) % 16 ≤ ((s.cring 0).producer + 16 - (s.cring 0).consumer) % 16 ∧
    ((s.cring 0).producer + 16 - (s.cring 0).consumer) % 16 < (2 + 16 - (s.cring 0).consumer) % 16 ∧
    ((post 0x18 1).extractLsb' 16 8).toNat = 0x18 ∧ 15 < s.admin.size ∧ s.admin.size ≤ 16 ∧
    (1 + 16 - s.adminArea.consumer) % 16 ≤ (s.adminArea.producer + 16 - s.adminArea.consumer) % 16 ∧
    (s.adminArea.producer + 16 - s.adminArea.consumer) % 16 < (2 + 16 - s.adminArea.consumer) % 16 := by decide +kernel

theorem witness_RefusedAccesses : { up with cfg := ⟨true, false, true, 0, 0, 0⟩ }.cfg.memorySpace = false ∧
    up.cfg.memorySpace = true ∧ State.reset.device ≠ .running ∧
    9 ≤ ((post 0x09 0).extractLsb' 16 8).toNat ∧
    ((post 0x09 0).extractLsb' 16 8).toNat ∉ [0x10, 0x11, 0x12, 0x13, 0x18] ∧
    ((post 0x14 0).extractLsb' 16 8).toNat ∉ [0x10, 0x11, 0x12, 0x13, 0x18] ∧
    ((post 0xFF 0).extractLsb' 16 8).toNat ∉ [0x10, 0x11, 0x12, 0x13, 0x18] ∧
    (Instr.registerWriteIgnored 0x3C 4 1).wellFormed = true ∧ (Instr.registerWriteIgnored 0x04 3 1).wellFormed = true := by
  decide +kernel

theorem witness_TimeLowReadTakesTheSnapshot : up.cfg.memorySpace = true ∧ 0x20 % 4 = 0 ∧ 0x3C % 4 = 0 ∧ 0 < 4 ∧ 0 + 4 ≤ 4 ∧
    3 < 4 ∧ 3 + 1 ≤ 4 ∧ { up with held := up.held.set 2 (some ⟨0, 2⟩) }.held[(2 : VectorId)] ≠ none ∧
    State.reset.cfg.busMaster = false ∧ up.postq = [] ∧ (∀ v : VectorId, up.held[v] = none) ∧ up.replies = [] ∧
    (queued 1).cfg.busMaster = true ∧ (queued 1).postq ≠ [] ∧ ∀ y ∈ (queued 1).replies, y.ready = false := by
  decide +kernel

theorem witness_MicrosecondTickAdvancesTheClocks : up.device = .running ∧ State.reset.device ≠ .running := by decide

/-- H5 is FREE and H1 ENDING; H0 is ARMED with the scan at it, alone on its list. -/
theorem witness_ClaimsEndArmedEntriesAlone :
    let s := oneHold .active 0 0
    (∀ x, s.entry 1 = some x → x.isArmed = false) ∧ s.entry 5 = none ∧ sparseWf [] s.watch = true ∧
    s.entry 0 = some (armedEntry (some 30)) ∧ (armedEntry (some 30)).isArmed = true ∧
    s.scan = .scanning (armedEntry (some 30)).cond.cell 0 ∧
    s.watchList (armedEntry (some 30)).cond.cell = [] ++ 0 :: [] ∧ (0 : EntryId) ∉ ([] : List EntryId) ∧
    (if (s.watchList 5).erase 0 = [] then s.wakeQueue.erase 5 else s.wakeQueue) = [] := by
  refine ⟨?_, ?_⟩
  · intro x h
    rw [oneHold_entry] at h
    cases h
    rfl
  · decide +kernel

/-- The claim of H0 while the scan stands elsewhere, and at H0 with an entry behind it or another cell queued. -/
theorem witness_ClaimsEndArmedEntriesAlone_scan :
    let s := { oneHold .active 0 0 with scan := .idle }
    let t := { oneHold .active 0 0 with watch := [(5, [0, 2])] }
    let u := { oneHold .active 0 0 with watch := [(5, [0]), (9, [3])], wakeQueue := [9] }
    s.scan ≠ .scanning 5 0 ∧ t.watchList 5 = [] ++ 0 :: [2] ∧ sparseWf [] t.watch = true ∧
    u.wakeQueue = 9 :: [] ∧ (u.watchList 9).head? = some 3 ∧ sparseWf [] u.watch = true ∧ u.scan = .scanning 5 0 := by
  decide +kernel

/-- Differences of 0, 2^47 - 1 and 2^47 between the time base and a deadline of 30. -/
theorem witness_TimeEndsWhatIsDue :
    let s := { oneHold .active 0 0 with timeBase := 30 }
    let w := work0 (.waitEntry ⟨hdrHold, .hold takeOne atLeast1 4⟩ (some 30) false)
    s.device = .running ∧ s.deadlines = 0 :: [] ∧ s.entry 0 = some (armedEntry (some 30)) ∧
    (armedEntry (some 30)).deadline = some 30 ∧ (s.timeBase.toNat + 2 ^ 48 - (30 : Time).toNat) % 2 ^ 48 < 2 ^ 47 ∧
    ((0x80000000001D : Time).toNat + 2 ^ 48 - (30 : Time).toNat) % 2 ^ 48 < 2 ^ 47 ∧
    2 ^ 47 ≤ ((0x80000000001E : Time).toNat + 2 ^ 48 - (30 : Time).toNat) % 2 ^ 48 ∧
    w.device = .running ∧ (w.ctx 0).work = .waitEntry ⟨hdrHold, .hold takeOne atLeast1 4⟩ (some 30) false ∧
    (let c := fun n => (queued n).setCRing 0 { cring0 with timer := some 0, unsignalled := 1 }
     (c 15).device = .running ∧ ((c 15).cring 0).timer = some 0 ∧ 0 < ((c 15).cring 0).unsignalled ∧
     (c 15).postq.length < 16 ∧ (∀ i : VectorId, (c 15).held[i] = none) ∧ (c 15).postq ≠ [] ∧
     16 ≤ (c 16).postq.length ∧ (c 16).held[(1 : VectorId)] = none) ∧
    ((up.setCRing 0 { cring0 with timer := some 1, unsignalled := 1 }).cring 0).timer = some (0 + 1) ∧
    (up.cring 0).timer = none ∧ (up.cring 0).unsignalled = 0 := by
  decide +kernel

/-- A bulk data read that waits on ring 0; else an admin slot published; else ring 0 eligible, first after ring 7, or the
last of the eight looked at; and each ground for issuing none. -/
theorem witness_ReadsAreIssuedInTheirOrder :
    let b := work0 (.loading ⟨hdr, .bulkWrite 0 2 0⟩ false)
    let a := { up with admin := ⟨0x10000, 16, 1, 0, 0, []⟩ }
    let e := up.setRing 0 ⟨.active, ringItems, 1, 0, 0, 1, []⟩
    b.device = .running ∧ b.cfg.busMaster = true ∧ b.place 0 = none ∧
    (b.ctx 0).work = .loading ⟨hdr, .bulkWrite 0 2 0⟩ false ∧
    (∀ i, (a.ctx i).work = .empty) ∧ a.adminEligible = true ∧ a.place 0 = none ∧
    (∀ i, (e.ctx i).work = .empty) ∧ e.adminEligible = false ∧ e.place 0 = none ∧
    e.ringEligible (e.lastChosen + 1 + Fin.ofNat 8 0) = true ∧
    (∀ j : Fin 7, { e with lastChosen := 0 }.ringEligible (0 + 1 + Fin.ofNat 8 j.val) = false) ∧
    { e with lastChosen := 0 }.ringEligible (0 + 1 + Fin.ofNat 8 7) = true ∧
    State.reset.device ≠ .running ∧ State.reset.cfg.busMaster = false ∧
    ∀ p, { up with places := .replicate 16 (some ⟨.bulk 0, 0, 16, 0, 0, true, 0⟩) }.place p ≠ none := by decide +kernel

/-- A fetch read, an admin fetch read and a bulk data read that are current, `n` ticks after their issue. -/
def withReads (n : Nat) : State :=
  { (((work0 (.loading ⟨hdr, .bulkWrite 0 2 0x900⟩ true)).setPlace 0 (some ⟨.fetch 0, 0, 64, 0, 1, true, n⟩)).setPlace 1
      (some ⟨.adminFetch, 0, 64, 0, 0, true, n⟩)).setPlace 2 (some ⟨.bulk 0, 0x900, 32, 0, 1, true, n⟩) with
    admin := ⟨0x10000, 16, 1, 1, 0, [none]⟩ }

theorem witness_ReturnedDataReachesItsOwner :
    let s := withReads 49999
    s.device = .running ∧ s.place 0 = some ⟨.fetch 0, 0, 64, 0, 1, true, 49999⟩ ∧ (1 : Byte) = (s.ring 0).generation ∧
    49999 < 50000 ∧ 64 * [(5 : Slot)].length = 64 ∧ (s.ring 0).state = .active ∧ (up.ring 0).state ≠ .active ∧
    s.place 1 = some ⟨.adminFetch, 0, 64, 0, 0, true, 49999⟩ ∧
    s.place 2 = some ⟨.bulk 0, 0x900, 32, 0, 1, true, 49999⟩ ∧ 16 * [(5 : CellValue), 6].length = 32 ∧
    (s.ctx 0).work = .loading ⟨hdr, .bulkWrite 0 2 0x900⟩ true ∧ Memory.wf (s.ctx 0).staging = true ∧
    (up.ctx 0).work = .empty := by decide +kernel

theorem witness_ReadFaultsReachTheirOwner :
    let s := withReads 50000
    (withReads 49999).place 0 = some ⟨.fetch 0, 0, 64, 0, 1, true, 49999⟩ ∧ 49999 < 50000 ∧
    s.device = .running ∧ s.place 0 = some ⟨.fetch 0, 0, 64, 0, 1, true, 50000⟩ ∧
    (1 : Byte) = (s.ring 0).generation ∧ (s.ring 0).state = .active ∧ (up.ring 0).state ≠ .active ∧
    (up.ring 0).state ≠ .draining ∧ 64 * ([] : List Slot).length ≠ 64 ∧ 64 * [(5 : Slot), 6].length ≠ 64 ∧
    s.place 1 = some ⟨.adminFetch, 0, 64, 0, 0, true, 50000⟩ ∧ 50000 ≤ 50000 ∧ s.place 2 = some ⟨.bulk 0, 0x900, 32, 0, 1, true, 50000⟩ ∧
    16 * [(5 : CellValue)].length ≠ 32 ∧ (s.ctx 0).work = .loading ⟨hdr, .bulkWrite 0 2 0x900⟩ true ∧
    (up.ctx 0).work = .empty := by decide +kernel

theorem witness_StaleReturnsOnlyReleaseTheirPlace :
    let s := (ring0 []).setPlace 0 (some ⟨.fetch 0, 0, 64, 0, 0, true, 50000⟩)
    s.place 0 = some ⟨.fetch 0, 0, 64, 0, 0, true, 50000⟩ ∧ (0 : Byte) ≠ (s.ring 0).generation ∧ 50000 ≤ 50000 ∧
    { s with device := .halted }.device ≠ .running ∧
    (let t := (withReads 49999).markReadsStale
     (t.place 1).map (·.deviceMark) = some false ∧ (t.place 1).map (·.owner) = some .adminFetch ∧
     (t.place 2).map (·.owner) = some (.bulk 0) ∧ (t.place 2).map (·.ticks) = some 49999) := by decide +kernel

theorem witness_FetchEventsEnterAndDrainingEnds :
    let s := (work0 .empty).setCtx 0 ⟨.empty, some 44, [], 0, false⟩
    let d := up.setRing 0 ⟨.draining, ringItems, 0, 0, 0, 1, []⟩
    s.device = .running ∧ (s.ctx 0).event = some 44 ∧ (s.ctx 0).work = .empty ∧
    ((s.setWork 0 (.loading ⟨hdr, .nop⟩ false)).ctx 0).work ≠ .empty ∧
    d.device = .running ∧ (d.ring 0).state = .draining ∧ (d.ctx 0).work = .empty ∧ (∀ p, d.place p = none) ∧
    (d.setPlace 3 (some ⟨.fetch 0, 0, 64, 0, 0, false, 0⟩)).place 3 = some ⟨.fetch 0, 0, 64, 0, 0, false, 0⟩ := by
  decide +kernel

/-- Each clause of validation: kinds 0 and 7, op 10 and scope 3 with a target at both ends of the window, op 11, a cell
past the window, a HOLD with its marker and without, and bulk counts 0, 1, 64 and 65. -/
theorem witness_ValidationFollowsTheTables :
    let u := slotOf [(0, 2), (2, 10), (3, 2), (6, 255), (8, 1), (16, 16)]
    let v := slotOf [(0, 2), (2, 11), (3, 3), (6, 256), (8, 65), (16, 8)]
    let y := slotOf [(0, 0x3C), (1, 3), (2, 3), (8, 255)]
    (slotByte (slotOf []) 0).toNat = 0 ∧ 7 ≤ (slotByte (slotOf [(0, 7)]) 0).toNat ∧
    (slotByte (slotOf [(0, 1)]) 0).toNat = 1 ∧ (slotByte (slotOf [(0, 6)]) 0).toNat = 6 ∧
    (slotByte (slotOf [(0, 3)]) 0).toNat = 3 ∧ (slotByte (slotOf [(0, 4)]) 0).toNat = 4 ∧
    (slotByte u 0).toNat = 2 ∧ (slotByte u 2).toNat ≤ 10 ∧ (slotByte u 3).toNat = 2 ∧
    ringItems.windowBase ≤ 0 ∧ (slotHalf u 6).toNat < ringItems.windowBase + ringItems.windowCount ∧
    ¬ (slotByte v 2).toNat ≤ 10 ∧ ¬ (slotHalf v 6).toNat < ringItems.windowBase + ringItems.windowCount ∧
    slotByte y 0 = 0x3C ∧ (slotByte y 1).toNat ≤ 3 ∧ (slotByte y 2).toNat = 3 ∧ slotByte u 0 ≠ 0x3C ∧
    (slotHalf y 8).toNat < ringItems.windowBase + ringItems.windowCount ∧
    1 ≤ (slotHalf u 8).toNat ∧ (slotQuad u 16).toNat % 16 = 0 ∧ 64 < (slotHalf v 8).toNat ∧
    (slotQuad v 16).toNat % 16 ≠ 0 := by decide +kernel

/-- What validation answers, as data. -/
def verdict (g : RingConfig) (x : Slot) (y : Option Slot) : Option Status :=
  match validateRequest g x y with
  | .error st => some st
  | .ok _ => none

theorem witness_RefusedRecordsAreReportedAndPassed :
    let u := slotOf [(0, 2), (2, 11)]
    let b := slotOf [(0, 4), (8, 65)]
    let c := slotOf [(0, 5), (6, 255), (8, 2)]
    let h := slotOf [(0, 3)]
    let s := ring0 [some h, some 0]
    s.device = .running ∧ (s.ring 0).state = .active ∧ (s.ctx 0).work = .empty ∧ (s.ctx 0).event = none ∧
    (s.ring 0).buffer = some h :: some 0 :: [] ∧ (slotByte h 0).toNat = 3 ∧
    verdict ringItems h (some 0) = some .badRequest ∧
    (slotByte u 0).toNat = 2 ∧ verdict ringItems u none = some .badRequest ∧
    (slotByte b 0).toNat = 4 ∧ verdict ringItems b none = some .badRequest ∧
    (slotByte c 0).toNat = 5 ∧ verdict ringItems c none = some .denied ∧
    (slotByte (0 : Slot) 0).toNat = 0 ∧ verdict ringItems 0 none = some .badRequest ∧
    7 ≤ (slotByte (slotOf [(0, 7)]) 0).toNat ∧ verdict ringItems (slotOf [(0, 7)]) none = some .badRequest := by
  decide +kernel

theorem no_oldest {b : List (Option Slot)} (h : b.head? = some none) : ∀ x rest, b ≠ some x :: rest := by
  rintro x rest rfl
  simp at h

/-- The buffer of a ring begins with no arrived slot, or with one that is not followed by another. -/
theorem witness_RecordsWaitForTheirTurn :
    (∀ x rest, ((ring0 [none]).ring 0).buffer ≠ some x :: rest) ∧
    (∀ x rest, { up with admin := ⟨0, 16, 1, 1, 0, [none]⟩ }.admin.buffer ≠ some x :: rest) ∧
    ((ring0 [some 3, none]).ring 0).buffer = [some 3, none] ∧ (slotByte (3 : Slot) 0).toNat = 3 ∧
    State.reset.device ≠ .running ∧ { up with adminCtx := .running 0 0 0 1 0 false }.adminCtx ≠ .empty ∧
    (up.ring 0).state ≠ .active ∧ ((work0 (.running ⟨hdr, .nop⟩)).ctx 0).work ≠ .empty ∧
    (((work0 .empty).setCtx 0 ⟨.empty, some 1, [], 0, false⟩).ctx 0).event ≠ none ∧
    ((ring0 [some 7]).ring 0).buffer = some 7 :: [] ∧ (slotByte (7 : Slot) 0).toNat = 7 :=
  ⟨no_oldest rfl, no_oldest rfl, by decide +kernel⟩

/-- The body of a validated record, as data. -/
def bodyOf (g : RingConfig) (x : Slot) (y : Option Slot) : Option Body :=
  match validateRequest g x y with
  | .error _ => none
  | .ok b => some b

theorem witness_ValidRequestsStartOrWaitAtTheirFence :
    let n := slotOf [(0, 1), (1, 1)]
    let u := slotOf [(0, 2), (6, 255)]
    let h := slotOf [(0, 3), (2, 2), (6, 5)]
    let y := slotOf [(0, 0x3C)]
    (bodyOf ringItems n none).isSome = true ∧ (bodyOf ringItems u none).isSome = true ∧
    (bodyOf ringItems (slotOf [(0, 4), (8, 1)]) none).isSome = true ∧
    (bodyOf ringItems (slotOf [(0, 5), (8, 64)]) none).isSome = true ∧
    (bodyOf ringItems (slotOf [(0, 6)]) none).isSome = true ∧
    (bodyOf ringItems h (some y)).isSome = true ∧ (slotHeader n).fence = true ∧ (slotHeader u).fence = false ∧
    (slotHeader (slotOf [(0, 1), (1, 2)])).quiet = true ∧ (slotHeader u).quiet = false ∧
    (ring0 [some n]).device = .running ∧ ((ring0 [some n]).ring 0).state = .active ∧
    ((ring0 [some n]).ctx 0).work = .empty ∧ ((ring0 [some n]).ctx 0).event = none ∧
    ((ring0 [some n]).ring 0).buffer = some n :: [] ∧
    ((ring0 [some h, some y]).ring 0).buffer = some h :: some y :: [] := by decide +kernel

/-- Ring 0 with an ARMED entry, where a fence waits, and without one. -/
theorem witness_ValidRequestsStartOrWaitAtTheirFence_fence (n : Slot) :
    (oneHold .active n 0).armedCount 0 = 1 ∧ (ring0 [some n]).armedCount 0 = 0 :=
  ⟨oneHold_armedCount _ _ _, armedCount_of_freeTable rfl 0⟩

/-- A CANCEL record of every tag, QUIET or not. -/
theorem witness_CancelEndsItsRingsMatchingEntries :
    let x := slotOf [(0, 6)]
    let s := oneHold .active x 0
    s.HoldLaw ∧
    (s.device = .running ∧ (s.ring 0).state = .active ∧ (s.ctx 0).work = .empty ∧ (s.ctx 0).event = none ∧
      (s.ring 0).buffer = some x :: [] ∧ (slotByte x 0).toNat = 6 ∧ (slotByte x 1).getLsbD 0 = false ∧
      (slotByte x 1).getLsbD 1 = false ∧ (slotByte (slotOf [(0, 6), (1, 2)]) 1).getLsbD 1 = true) ∧
    ∀ e z, s.entry e = some z → z.origin = 0 → z.cring = 0 := by
  refine ⟨oneHold_holdLaw _ _ _, by decide +kernel, ?_⟩
  intro e z h _
  rw [oneHold_entry] at h
  split at h
  · cases h; rfl
  · split at h
    · cases h; rfl
    · cases h

theorem witness_FencesOpenWithTheLastArmedEntry :
    ((work0 (.waitFence ⟨hdr, .nop⟩)).ctx 0).work = .waitFence ⟨hdr, .nop⟩ ∧
    ((work0 (.waitFence ⟨hdr, .nop⟩)).setWork 0 (.waitFence ⟨hdr, .update takeOne⟩)).device = .running ∧
    (work0 (.waitFence ⟨hdr, .nop⟩)).armedCount 0 = 0 ∧
    ((oneHold .active 0 0).setWork 0 (.waitFence ⟨hdr, .bulkRead 0 1 0⟩)).armedCount 0 = 1 ∧
    State.reset.device ≠ .running ∧ hdr.quiet = false ∧ (Header.mk 1 0 true true false).quiet = true :=
  ⟨rfl, rfl, armedCount_of_freeTable rfl 0, oneHold_armedCount .active 0 0, by decide, rfl, rfl⟩

/-- The scan; the admin context; ring 0 with its last credit; ring 0 with no credit, looked at last; and a RESETTING with
an operation in progress. -/
theorem witness_GrantsFollowTheArbiter :
    let a := { up with adminCtx := .running 0x49 0 0 1 0 false }
    let r := { work0 (.running ⟨hdr, .update takeOne⟩) with arbCredit := 1 }
    (oneHold .active 0 0).device = .running ∧ (oneHold .active 0 0).scan ≠ .idle ∧
    a.device = .running ∧ a.scan = .idle ∧ a.adminHasWork = true ∧
    r.device = .running ∧ r.scan = .idle ∧ r.adminHasWork = false ∧ r.hasWork r.arbPointer = true ∧ 0 < r.arbCredit ∧
    { r with arbCredit := 0 }.arbCredit = 0 ∧ (∀ j : Fin 7, r.hasWork (r.arbPointer + 1 + Fin.ofNat 8 j.val) = false) ∧
    r.hasWork (r.arbPointer + 1 + Fin.ofNat 8 7) = true ∧ { r with arbPointer := 7 }.hasWork 7 = false ∧
    { r with arbPointer := 7 }.hasWork (7 + 1 + Fin.ofNat 8 0) = true ∧
    { up with device := .resetting, portOp := some .scan }.device = .resetting := by decide +kernel

/-- The last cell of a BULK READ with one place free, and with the place a held message's or a record's; a record that can
be written goes first with all places free too. -/
theorem witness_GrantsFollowTheArbiter_lastCell :
    let b := { work0 (.running ⟨hdr, .bulkRead 0 1 0⟩) with postq := List.replicate 15 (.bulkData 0 [0]) }
    (b.ctx 0).progress + 1 = 1 ∧ b.postq.length = 15 ∧ (∀ v : VectorId, b.held[v] = none) ∧
    (b.canWrite .admin = false ∧ ∀ c : CRingId, b.canWrite (.ring c) = false) ∧ b.hasWork 0 = true ∧
    { b with held := up.held.set 2 (some ⟨0, 2⟩) }.hasWork 0 = false ∧
    { b with adminArea := ⟨0, 0, true, [.admin]⟩ }.hasWork 0 = false ∧
    { b with postq := [], adminArea := ⟨0, 0, true, [.admin]⟩ }.hasWork 0 = false := by decide +kernel

theorem witness_ActionsArePerformedAtArrival :
    let s := work0 (.running ⟨hdr, .update takeOne⟩)
    let h := withCell (work0 (.running ⟨hdrHold, .hold takeOne atLeast1 0⟩)) 5 1
    let w := withCell (work0 (.waitEntry ⟨hdrHold, .hold takeOne atLeast1 4⟩ (some 9) true)) 5 1
    Memory.wf s.mem = true ∧ (s.grant (.ring 0)).isSome = true ∧ (s.ctx 0).work = .running ⟨hdr, .update takeOne⟩ ∧
    takeOne.op ≠ .none ∧ Memory.wf h.mem = true ∧ (h.grant (.ring 0)).isSome = true ∧
    atLeast1.holds (readCell h.mem atLeast1.cell) = true ∧
    (h.ctx 0).work = .running ⟨hdrHold, .hold takeOne atLeast1 0⟩ ∧ (w.grant (.ring 0)).isSome = true ∧
    atLeast1.holds (readCell w.mem atLeast1.cell) = true ∧
    (w.ctx 0).work = .waitEntry ⟨hdrHold, .hold takeOne atLeast1 4⟩ (some 9) true := by decide +kernel

/-- A table without a FREE entry. -/
def fullTable : Vector (Option HoldEntry) 256 := .replicate 256 (some { endingEntry with origin := 3 })

theorem witness_FalseHoldsEndOrWaitForAnEntry :
    let s := work0 (.running ⟨hdrHold, .hold takeOne atLeast1 1⟩)
    let f := { s with table := fullTable }
    let w := { work0 (.waitEntry ⟨hdrHold, .hold takeOne atLeast1 4⟩ (some 30) true) with timeBase := 30 }
    (s.grant (.ring 0)).isSome = true ∧ atLeast1.holds (readCell s.mem atLeast1.cell) = false ∧
    (s.ctx 0).work = .running ⟨hdrHold, .hold takeOne atLeast1 1⟩ ∧ (1 : BitVec 32) ≠ 0 ∧
    s.occ 0 < (s.ring 0).config.quota ∧ ((s.setOcc 0 2).ring 0).config.quota ≤ (s.setOcc 0 2).occ 0 ∧
    (∀ e, f.entry e ≠ none) ∧ (f.grant (.ring 0)).isSome = true ∧
    (w.grant (.ring 0)).isSome = true ∧ (w.ctx 0).work = .waitEntry ⟨hdrHold, .hold takeOne atLeast1 4⟩ (some 30) true ∧
    (w.timeBase.toNat + 2 ^ 48 - (30 : Time).toNat) % 2 ^ 48 < 2 ^ 47 ∧
    ¬ ((29 : Time).toNat + 2 ^ 48 - (30 : Time).toNat) % 2 ^ 48 < 2 ^ 47 := by decide +kernel

/-- The lowest FREE entry is H0, or H255; the timeouts 1, 0xFFFFFFFE and 0xFFFFFFFF. -/
theorem witness_FalseHoldsArmTheLowestFreeEntry :
    let s := work0 (.running ⟨hdrHold, .hold takeOne atLeast1 1⟩)
    let f := { s with table := fullTable.set 255 none }
    let w := { work0 (.waitEntry ⟨hdrHold, .hold takeOne atLeast1 4⟩ (some 30) true) with timeBase := 29 }
    sparseWf [] s.watch = true ∧ (s.grant (.ring 0)).isSome = true ∧
    atLeast1.holds (readCell s.mem atLeast1.cell) = false ∧ s.occ 0 < (s.ring 0).config.quota ∧ s.entry 0 = none ∧
    f.entry 255 = none ∧ (∀ i, i < 255 → f.entry i ≠ none) ∧ (f.grant (.ring 0)).isSome = true ∧
    (s.ctx 0).work = .running ⟨hdrHold, .hold takeOne atLeast1 1⟩ ∧ (1 : BitVec 32) ≠ 0 ∧
    (0xFFFFFFFE : BitVec 32) ≠ 0xFFFFFFFF ∧ (w.grant (.ring 0)).isSome = true ∧ w.entry 0 = none ∧
    (w.ctx 0).work = .waitEntry ⟨hdrHold, .hold takeOne atLeast1 4⟩ (some 30) true ∧
    2 ^ 47 ≤ (w.timeBase.toNat + 2 ^ 48 - (30 : Time).toNat) % 2 ^ 48 := by decide +kernel

theorem witness_ScanStepsFireTrueEntries :
    let s := oneHold .active 0 0
    (s.grant .scan).isSome = true ∧ Memory.wf s.mem = true ∧ sparseWf [] s.watch = true ∧ s.scan = .scanning 5 0 ∧
    s.entry 0 = some (armedEntry (some 30)) ∧ (armedEntry (some 30)).isArmed = true ∧
    (armedEntry (some 30)).cond.cell = 5 ∧ (armedEntry (some 30)).cond.holds (readCell s.mem 5) = true ∧
    (armedEntry (some 30)).quiet = false ∧ s.watchList 5 = [] ++ 0 :: [] := by decide +kernel

/-- A QUIET entry at the position, with another behind it. -/
theorem witness_ScanStepsFireTrueEntries_quiet :
    let x := { armedEntry none with quiet := true }
    let s := { oneHold .active 0 0 with
      table := (up.table.set 0 (some x)).set 2 (some (armedEntry none)), watch := [(5, [0, 2])], deadlines := [] }
    (s.grant .scan).isSome = true ∧ s.entry 0 = some x ∧ x.quiet = true ∧
    x.cond.holds (readCell s.mem 5) = true ∧ s.watchList 5 = [] ++ 0 :: 2 :: [] ∧
    (s.ctx 1).work.code = 2 := by decide +kernel

theorem witness_ScanStepsPassFalseEntries :
    let s := { oneHold .active 0 0 with mem := [] }
    let u := { s with watch := [(5, [0]), (9, [3])], wakeQueue := [9] }
    (s.grant .scan).isSome = true ∧ s.scan = .scanning 5 0 ∧ s.entry 0 = some (armedEntry (some 30)) ∧
    (armedEntry (some 30)).cond.holds (readCell s.mem 5) = false ∧ s.watchList 5 = [] ++ 0 :: [] ∧ s.wakeQueue = [] ∧
    u.wakeQueue = 9 :: [] ∧ (u.watchList 9).head? = some 3 ∧ (u.grant .scan).isSome = true ∧
    { s with watch := [(5, [0, 2])] }.watchList 5 = [] ++ 0 :: 2 :: [] ∧ up.scan = .idle ∧ State.reset.device = .idle ∧
    { s with device := .halted }.device = .halted := by decide +kernel

/-- Cells 1 and 2 of a bulk transfer of two, in RUNNING, and a cell completed in RESETTING. -/
theorem witness_BulkCellsMoveOneAtATime :
    let b := fun (body : Body) (k : Nat) => (work0 .empty).setCtx 0 ⟨.running ⟨hdr, body⟩, none, [(0, 1)], k, false⟩
    let s := b (.bulkRead 4094 2 0) 0
    let t := b (.bulkWrite 4094 2 0) 1
    (s.grant (.ring 0)).isSome = true ∧ Memory.wf (s.ctx 0).staging = true ∧ (s.ctx 0).progress < 2 ∧
    4094 + (s.ctx 0).progress < 4096 ∧ (s.ctx 0).work = .running ⟨hdr, .bulkRead 4094 2 0⟩ ∧ 0 + 1 < 2 ∧
    s.device = .running ∧ (t.grant (.ring 0)).isSome = true ∧ (t.ctx 0).work = .running ⟨hdr, .bulkWrite 4094 2 0⟩ ∧
    (t.ctx 0).progress + 1 = 2 ∧ 4094 + (t.ctx 0).progress < 4096 ∧ Memory.wf t.mem = true ∧ hdr.quiet = false ∧
    ((b (.bulkRead 4094 2 0) 1).ctx 0).progress + 1 = 2 ∧ ((b (.bulkRead 4094 2 0) 1).grant (.ring 0)).isSome = true ∧
    ({ s with device := .resetting, portOp := some (.ring 0) }.grant (.ring 0)).isSome = true := by decide +kernel

theorem witness_ClearCellsZeroesOneCellAGrant :
    let s := { up with adminCtx := .running 0x49 0 4094 2 0 false }
    let t := { up with adminCtx := .running 0x49 0 4094 2 1 true }
    (s.grant .admin).isSome = true ∧ Memory.wf s.mem = true ∧ s.adminCtx = .running 0x49 0 4094 2 0 false ∧ 0 < 2 ∧
    4094 + 0 < 4096 ∧ 0 + 1 < 2 ∧ (t.grant .admin).isSome = true ∧ t.adminCtx = .running 0x49 0 4094 2 1 true ∧
    1 < 2 ∧ 4094 + 1 < 4096 ∧ 1 + 1 = 2 := by decide +kernel

/-- A report for the witnesses. -/
def someReport : Report := ⟨.ok, 2, 7, ⟨true, false, false⟩, none, 1, 9⟩

/-- The head of completion ring 0's list is an ENDING entry, or a context that reports; the count stays below its
threshold or reaches it; the queue is short, holds 15 or holds 16 writes; and each condition that fails. -/
theorem witness_RingRecordsAreWrittenAndDelivered :
    let e := oneHold .active 0 0
    let r := (work0 (.reporting someReport)).setCRing 0 { cring0 with list := [.ring 0], unsignalled := 1 }
    let q := { r with postq := List.replicate 15 (.bulkData 0 [0]) }
    e.device = .running ∧ (e.cring 0).list = .entry 1 :: [] ∧ (e.cring 0).active = true ∧
    ((e.cring 0).producer + 1) % (e.cring 0).size ≠ (e.cring 0).consumer ∧ (∀ i : VectorId, e.held[i] = none) ∧
    e.postq.length < 15 ∧ e.canWrite .admin = false ∧ (∀ i : CRingId, i < 0 → e.canWrite (.ring i) = false) ∧ e.entry 1 = some endingEntry ∧
    endingEntry.state = .ending ⟨.ok, ⟨true, false, false⟩, none, 9⟩ ∧
    ¬ ((e.cring 0).intEnable = true ∧ (e.cring 0).threshold ≤ (e.cring 0).unsignalled + 1) ∧
    r.device = .running ∧ (r.cring 0).list = .ring 0 :: [] ∧ (r.ctx 0).work = .reporting someReport ∧
    (r.cring 0).active = true ∧ ((r.cring 0).producer + 1) % (r.cring 0).size ≠ (r.cring 0).consumer ∧
    ((r.cring 0).intEnable = true ∧ (r.cring 0).threshold ≤ (r.cring 0).unsignalled + 1) ∧
    q.postq.length = 15 ∧ q.canWrite .admin = false ∧ (∀ i : CRingId, i < 0 → q.canWrite (.ring i) = false) ∧
    (up.cring 0).list = [] ∧ (up.cring 0).active = false ∧
    (({ cring0 with producer := 15 } : CompletionRing).producer + 1) % 16 = 0 ∧ State.reset.device ≠ .running ∧
    16 ≤ (queued 16).postq.length ∧ ({ up with held := up.held.set 2 (some ⟨0, 2⟩) }.held[(2 : VectorId)]) ≠ none ∧
    { r with adminCtx := .reporting someReport, adminArea := ⟨0, 0, true, [.admin]⟩ }.canWrite .admin = true ∧
    (0 : CRingId) < 1 ∧ r.canWrite (.ring 0) = true := by
  decide +kernel

theorem witness_AdminRecordsAreWrittenAndDelivered :
    let s := { queued 14 with adminCtx := .reporting someReport, adminArea := ⟨15, 1, true, [.admin]⟩ }
    s.device = .running ∧ s.adminCtx = .reporting someReport ∧ s.adminArea.list = .admin :: [] ∧
    (s.adminArea.producer + 1) % s.admin.size ≠ s.adminArea.consumer ∧ (∀ i : VectorId, s.held[i] = none) ∧
    s.postq.length < 15 ∧ (queued 15).postq.length = 15 ∧ up.adminArea.list = [] ∧
    ({ s with adminArea := ⟨15, 0, true, [.admin]⟩ }.adminArea.producer + 1) % s.admin.size = 0 ∧
    State.reset.device ≠ .running ∧ 16 ≤ (queued 16).postq.length := by decide +kernel

theorem witness_PostedWritesLeaveInOrder :
    let s := { queued 15 with held := up.held.set 2 (some ⟨0, 2⟩) }
    (queued 1).cfg.busMaster = true ∧ (queued 1).postq = .bulkData 0 [0] :: [] ∧
    { up with postq := [.message ⟨0, 0⟩] }.postq = .message ⟨0, 0⟩ :: [] ∧
    State.reset.cfg.msiEnable = false ∧ up.cfg.msiEnable = true ∧ State.reset.cfg.busMaster = false ∧ up.postq = [] ∧
    s.postq.length < 16 ∧ s.held[(2 : VectorId)] = some ⟨0, 2⟩ ∧ (∀ i : VectorId, i < 2 → s.held[i] = none) ∧
    16 ≤ (queued 16).postq.length ∧ (∀ i : VectorId, up.held[i] = none) ∧ up.cfg.busMaster = true := by decide +kernel

/-- Messages that a departure, a release or a configuration write brings to the head while messages are disabled. -/
theorem witness_PostedWritesLeaveInOrder_dropped :
    let off : ConfigSpace := ⟨true, true, false, 0, 0, 0⟩
    let q : List PostedWrite := [.message ⟨0, 1⟩, .message ⟨0, 0⟩, .bulkData 0 [0]]
    { up with cfg := off, postq := .bulkData 0 [0] :: q }.postq = .bulkData 0 [0] :: q ∧
    (q.takeWhile PostedWrite.isMessage).length = 2 ∧ off.busMaster = true ∧ off.msiEnable = false ∧
    { up with cfg := off, held := up.held.set 2 (some ⟨0, 2⟩) }.postq = [] := by decide +kernel

/-- Kinds at both ends of the admin kinds, selectors at the ends of each range of Table 11-3, and CLEAR CELLS ranges that
end at C4095 and one past it. -/
theorem witness_AdminMarkersStatusAndClears :
    let s := adminWith (slotOf [(0, 0x41)])
    s.device = .running ∧ s.adminCtx = .empty ∧ s.admin.buffer = some (slotOf [(0, 0x41)]) :: [] ∧
    (slotByte (slotOf [(0, 0x41)]) 0).toNat = 0x41 ∧ (slotByte (slotOf [(0, 0x40)]) 0).toNat < 0x41 ∧
    0x4A < (slotByte (slotOf [(0, 0x4B)]) 0).toNat ∧ (slotByte (slotOf [(0, 0x49)]) 0).toNat = 0x49 ∧
    (slotHalf (slotOf [(0, 0x49)]) 8).toNat = 0 ∧ 4096 < (slotHalf (slotOf [(8, 4097)]) 8).toNat ∧
    4096 < (slotHalf (slotOf [(6, 1), (8, 4096)]) 6).toNat + (slotHalf (slotOf [(6, 1), (8, 4096)]) 8).toNat ∧
    1 ≤ (slotHalf (slotOf [(6, 4095), (8, 1)]) 8).toNat ∧
    (slotHalf (slotOf [(6, 4095), (8, 1)]) 6).toNat + (slotHalf (slotOf [(6, 4095), (8, 1)]) 8).toNat ≤ 4096 ∧
    (slotByte (slotOf [(0, 0x4A)]) 0).toNat = 0x4A ∧ (slotByte (slotOf [(0, 0x4A)]) 8).toNat = 0 ∧
    (slotByte (slotOf [(8, 0x10)]) 8).toNat = 0x10 + (0 : RingId).val ∧
    (slotByte (slotOf [(8, 0x17)]) 8).toNat = 0x10 + (7 : RingId).val ∧
    (slotByte (slotOf [(8, 0x20)]) 8).toNat = 0x20 + (0 : CRingId).val ∧
    (slotByte (slotOf [(8, 0x23)]) 8).toNat = 0x20 + (3 : CRingId).val ∧
    (slotByte (slotOf [(8, 0x0F)]) 8).toNat < 0x10 ∧ 0x18 ≤ (slotByte (slotOf [(8, 0x18)]) 8).toNat ∧
    (slotByte (slotOf [(8, 0x1F)]) 8).toNat < 0x20 ∧ 0x24 ≤ (slotByte (slotOf [(8, 0x24)]) 8).toNat := by
  decide +kernel

/-- A request ring's items at the low ends of their ranges and at the high ends; rings 7 and 3, and the numbers past
them; an item out of range; rings that may be configured and rings that may not. -/
theorem witness_ConfiguresInstallOrRefuse :
    let lo := slotOf [(0, 0x42), (8, 7), (10, 1), (12, 16), (26, 1)]
    let hi := slotOf [(0, 0x42), (8, 8), (9, 3), (10, 8), (12, 4096), (14, 256), (16, 64), (24, 4095), (26, 1)]
    let c := slotOf [(0, 0x43), (8, 3), (9, 1), (10, 64), (12, 4096), (14, 65535), (16, 32)]
    (adminWith lo).device = .running ∧ (adminWith lo).adminCtx = .empty ∧ (adminWith lo).admin.buffer = some lo :: [] ∧
    (slotByte lo 0).toNat = 0x42 ∧ (slotByte lo 8).toNat = (7 : RingId).val ∧ 8 ≤ (slotByte hi 8).toNat ∧
    (decodeRingConfig lo).isSome = true ∧ (decodeRingConfig hi).isSome = true ∧
    (decodeRingConfig (slotOf [(0, 0x42), (10, 9), (12, 16), (26, 1)])).isSome = false ∧
    (slotByte lo 9).toNat = (0 : CRingId).val ∧ (up.ring 7).state = .unconfigured ∧ up.occ 7 = 0 ∧
    (up.ctx 7).work = .empty ∧ (∀ p, up.place p = none) ∧ ((ring0 []).ring 0).state = .active ∧
    (slotByte c 0).toNat = 0x43 ∧ (slotByte c 8).toNat = (3 : CRingId).val ∧
    4 ≤ (slotByte (slotOf [(0, 0x43), (8, 4)]) 8).toNat ∧ (decodeCRingConfig c []).isSome = true ∧
    (decodeCRingConfig (slotOf [(0, 0x43), (10, 65), (12, 16)]) []).isSome = false ∧
    (up.cring 3).active = false ∧ ((ring0 []).cring 0).active = true := by decide +kernel

theorem witness_StartAndStopMoveTheRingState :
    let x := slotOf [(0, 0x44), (8, 7)]
    let y := slotOf [(0, 0x45), (8, 0)]
    (adminWith x).device = .running ∧ (adminWith x).adminCtx = .empty ∧ (adminWith x).admin.buffer = some x :: [] ∧
    (slotByte x 0).toNat = 0x44 ∧ (slotByte x 8).toNat = (7 : RingId).val ∧ 8 ≤ (slotByte (slotOf [(8, 8)]) 8).toNat ∧
    ((up.setRing 7 ⟨.ready, ringItems, 0, 0, 0, 1, []⟩).ring 7).state = .ready ∧
    ((up.setRing 7 ⟨.stopped, ringItems, 0, 0, 0, 1, []⟩).ring 7).state = .stopped ∧
    (up.ring 7).state = .unconfigured ∧ (slotByte y 0).toNat = 0x45 ∧ (slotByte y 8).toNat = (0 : RingId).val ∧
    ((ring0 []).ring 0).state = .active ∧ ((ring0 []).ctx 0).work = .empty ∧ (∀ p, (ring0 []).place p = none) ∧
    ((work0 (.running ⟨hdr, .nop⟩)).ctx 0).work ≠ .empty ∧
    ((up.setRing 0 ⟨.draining, ringItems, 0, 0, 0, 1, []⟩).ring 0).state = .draining ∧
    ((up.setRing 0 ⟨.faulted, ringItems, 0, 0, 0, 1, []⟩).ring 0).state = .faulted := by decide +kernel

/-- A ring that may be reset, with an ARMED entry; a ring UNCONFIGURED; a ring barred by a read; and each work state. -/
theorem witness_ResetRingAbortsWhatTheRingHolds :
    let x := slotOf [(0, 0x46), (8, 0)]
    let s := oneHold .faulted 0 x
    let b := s.setPlace 0 (some ⟨.fetch 0, 0, 64, 0, 2, true, 0⟩)
    (s.device = .running ∧ s.adminCtx = .empty ∧ s.admin.buffer = some x :: [] ∧ (slotByte x 0).toNat = 0x46 ∧
      (slotByte x 8).toNat = (0 : RingId).val ∧ 8 ≤ (slotByte (slotOf [(8, 8)]) 8).toNat ∧
      (s.ring 0).state ≠ .unconfigured ∧ (∀ p, s.place p = none) ∧ (up.ring 7).state = .unconfigured ∧
      b.place 0 = some ⟨.fetch 0, 0, 64, 0, 2, true, 0⟩ ∧ (2 : Byte) = (b.ring 0).generation + 1 ∧
      (s.ctx 0).work = .empty) ∧
    s.HoldLaw ∧ (∀ q d b, ((s.setWork 0 (.waitEntry q d b)).ctx 0).work = .waitEntry q d b) ∧
    (∀ q, ((s.setWork 0 (.running q)).ctx 0).work = .running q) ∧
    ∀ e z, s.entry e = some z → z.origin = 0 → z.cring = (s.ring 0).config.cring := by
  refine ⟨by decide +kernel, oneHold_holdLaw _ _ _, fun _ _ _ => rfl, fun _ => rfl, ?_⟩
  intro e z h _
  rw [oneHold_entry] at h
  split at h
  · cases h; rfl
  · split at h
    · cases h; rfl
    · cases h

theorem witness_ResetCompletionRingDiscardsItsList :
    let x := slotOf [(0, 0x47), (8, 0)]
    let s := oneHold .stopped 0 x
    s.HoldLaw ∧ s.device = .running ∧ s.adminCtx = .empty ∧ s.admin.buffer = some x :: [] ∧
    (slotByte x 0).toNat = 0x47 ∧ (slotByte x 8).toNat = (0 : CRingId).val ∧
    4 ≤ (slotByte (slotOf [(8, 4)]) 8).toNat ∧
    (¬ ∃ r, (s.ring r).config.cring = 0 ∧ ((s.ring r).state = .active ∨ (s.ring r).state = .draining)) ∧
    (((oneHold .active 0 x).ring 0).config.cring = 0 ∧ ((oneHold .active 0 x).ring 0).state = .active) ∧
    (s.cring 0).list = [.entry 1] ∧ (s.ctx 1).work.code = 2 :=
  ⟨oneHold_holdLaw _ _ _, by decide +kernel⟩

/-- Selectors 7, 8, 0xFE and 0xFF. -/
theorem witness_CancelHoldsReachesEntriesAndWaitingHolds :
    let x := slotOf [(0, 0x48), (8, 0xFF)]
    let s := oneHold .active 0 x
    s.HoldLaw ∧ s.device = .running ∧ s.adminCtx = .empty ∧ s.admin.buffer = some x :: [] ∧
    (slotByte x 0).toNat = 0x48 ∧ (slotByte x 8).toNat = 0xFF ∧ (slotByte (slotOf [(8, 7)]) 8).toNat < 8 ∧
    8 ≤ (slotByte (slotOf [(8, 8)]) 8).toNat ∧ (slotByte (slotOf [(8, 0xFE)]) 8).toNat ≠ 0xFF ∧
    (s.ctx 1).work = .waitEntry ⟨⟨3, 7, false, false, false⟩, .hold takeOne atLeast1 4⟩ none false :=
  ⟨oneHold_holdLaw _ _ _, by decide +kernel⟩

theorem witness_OpsChangeTheirScopeAsGiven : (∀ i, (1 : Lane).getLsbD i → (3 : Lane).getLsbD i) ∧
    (∀ i, (4 : Lane).getLsbD i → (3 : Lane).getLsbD i = false) ∧ (3 : Lane) = 3 ∧ (3 : Lane) ≠ 4 ∧
    Op.max ∈ [Op.read, .store, .swap, .set, .clear, .flip, .merge, .cswap, .max, .min, .none] ∧ Op.max ≠ .cswap ∧
    Op.max ≠ .add := by
  refine ⟨?_, ?_, by decide⟩
  · have h : ∀ j : Fin 64, (1 : Lane).getLsbD j.val → (3 : Lane).getLsbD j.val := by decide
    exact fun i hi => h ⟨i, BitVec.lt_of_getLsbD hi⟩ hi
  · have h : ∀ j : Fin 64, (4 : Lane).getLsbD j.val → (3 : Lane).getLsbD j.val = false := by decide
    exact fun i hi => h ⟨i, BitVec.lt_of_getLsbD hi⟩ hi

/-- A lane of one bit and a lane of 64; the sums -1, 0, 2^64 - 1 and 2^64. -/
theorem witness_AddWrapsOutsideItsScope : 0 < 1 ∧ 0 < 64 ∧ addWraps (0 : Lane) (-1) = true ∧
    addWraps (1 : Lane) (-1) = false ∧ addWraps (0xFFFFFFFFFFFFFFFE : Lane) 1 = false ∧
    addWraps (0xFFFFFFFFFFFFFFFF : Lane) 1 = true ∧ scopedWrap .add .pair (cell 0 (2 ^ 64 - 1)) (cell 0 1) = true := by
  decide +kernel

/-- A mask that is empty in the selected part. -/
theorem witness_ConditionsCompareMaskedValues :
    (⟨0, .lane0, .geu, cell 1 0, cell 0 5⟩ : Condition).mask.toNat % 2 ^ 64 = 0 ∧
    (⟨0, .lane1, .geu, cell 0 1, cell 0 5⟩ : Condition).mask.toNat / 2 ^ 64 = 0 := by decide +kernel

theorem oneHold_step : ∃ t, step (oneHold .active 0 0) = .next t := step_next_of_goesOn (by decide +kernel)

theorem witness_StepsKeepTheStores : (oneHold .active 0 0).StoreLaw ∧ ∃ t, step (oneHold .active 0 0) = .next t :=
  ⟨oneHold_storeLaw _ _ _, oneHold_step⟩

theorem witness_StepsKeepTheHoldTableMemberships : (oneHold .active 0 0).HoldLaw ∧
    ∃ t, step (oneHold .active 0 0) = .next t := ⟨oneHold_holdLaw _ _ _, oneHold_step⟩

theorem witness_StepsKeepOccupancyWithinQuota : (oneHold .active 0 0).QuotaLaw ∧
    ∃ t, step (oneHold .active 0 0) = .next t := ⟨oneHold_quotaLaw _ _ _, oneHold_step⟩

theorem witness_StepsKeepTheWakeQueue : (oneHold .active 0 0).HoldLaw ∧ (oneHold .active 0 0).WakeLaw ∧
    ∃ t, step (oneHold .active 0 0) = .next t := ⟨oneHold_holdLaw _ _ _, oneHold_wakeLaw _ _ _, oneHold_step⟩

theorem witness_NoWakeUpIsLost : (oneHold .active 0 0).StoreLaw ∧ (oneHold .active 0 0).HoldLaw ∧
    (oneHold .active 0 0).WakeLaw ∧ (oneHold .active 0 0).NoLostWakeup ∧ ∃ t, step (oneHold .active 0 0) = .next t :=
  ⟨oneHold_storeLaw _ _ _, oneHold_holdLaw _ _ _, oneHold_wakeLaw _ _ _, oneHold_noLostWakeup _ _ _, oneHold_step⟩

theorem witness_EveryCascadeEnds : (oneHold .active 0 0).device = .running ∧ (oneHold .active 0 0).HoldLaw ∧
    (oneHold .active 0 0).WakeLaw := ⟨rfl, oneHold_holdLaw _ _ _, oneHold_wakeLaw _ _ _⟩

theorem witness_StepsKeepTheRingIndices : (oneHold .active 0 0).RingLaw ∧ ∃ t, step (oneHold .active 0 0) = .next t :=
  ⟨oneHold_ringLaw _ _, oneHold_step⟩

theorem witness_StepsKeepTheCompletionRings : (oneHold .active 0 0).CRingLaw ∧
    ∃ t, step (oneHold .active 0 0) = .next t := ⟨oneHold_cringLaw _ _ _, oneHold_step⟩

theorem witness_StepsKeepThePostedWriteQueue : (oneHold .active 0 0).QueueLaw ∧
    ∃ t, step (oneHold .active 0 0) = .next t := ⟨oneHold_queueLaw _ _ _, oneHold_step⟩

/-- Around cell 5, which a scan step targets, and at it, for a command without a cell-port operation. -/
theorem witness_CellsChangeOnlyAtTheirTarget :
    let s := { oneHold .active 0 0 with pending := [] }
    Memory.wf s.mem = true ∧ Instr.scanStep ≠ .powerOnReset ∧ (∃ t, exec .scanStep s = .next t) ∧
    s.writtenCell .scanStep = some 5 ∧ (79 < 16 * 5 ∧ 16 * 5 + 16 ≤ 96) ∧
    Instr.microsecondTick ≠ .powerOnReset ∧ s.writtenCell .microsecondTick = none ∧
    ∃ t, exec .microsecondTick s = .next t :=
  ⟨by decide, nofun, ⟨_, rfl⟩, rfl, by decide, nofun, rfl, ⟨_, rfl⟩⟩

theorem witness_HaltedFreezesThePart :
    let s := { oneHold .active 0 0 with device := .halted }
    s.device = .halted ∧ Instr.scanStep.wellFormed = true ∧ Instr.scanStep ≠ .powerOnReset ∧
    (∀ b, Instr.scanStep ≠ .linkReset b) ∧ (∀ w b, Instr.scanStep ≠ .controlReset w b) ∧
    ∃ t, exec .scanStep s = .next t := ⟨rfl, rfl, nofun, fun _ => nofun, fun _ _ => nofun, ⟨_, rfl⟩⟩

/-- H1 is ENDING and its record is written; H0 is ARMED and expires. -/
theorem witness_OutcomesAreFixedAndTimeoutsNeverEarly :
    let s := oneHold .active 0 0
    let t := { s with scan := .idle }
    s.entry 1 = some endingEntry ∧ endingEntry.state = .ending ⟨.ok, ⟨true, false, false⟩, none, 9⟩ ∧
    (∃ u, exec (.completionRecordWrite (.ring 0)) s = .next u) ∧ t.entry 0 = some (armedEntry (some 30)) ∧
    (armedEntry (some 30)).isArmed = true ∧ (∃ u, exec .expiry t = .next u) ∧
    (after .expiry t).entry 0 = some { armedEntry (some 30) with
      state := .ending ⟨.timeout, ⟨false, false, false⟩, none, 40⟩ } :=
  ⟨rfl, rfl, ⟨_, rfl⟩, rfl, rfl, ⟨_, rfl⟩, by decide +kernel⟩

/-- The reserved offsets begin at 0x28. -/
theorem witness_RegisterReads : 0x28 ≤ 0x28 ∧ 0x28 ≤ 0x3C := by decide

end Sys2Proof.Tests
end

section
/-! PROOFS. What one command may do to the stores, the queue and the runs of cells at work: it writes at most the one
cell it targets. Every shared operation has one lemma that says so, every command's meaning is composed of them, and
the invariants of the Cell Store (R1, R15, R118, R129) are read off the composition. -/

namespace Sys2Proof.Machine

/-! ### The effect of an operation on the stores -/

/-- Between `s` and `t` at most the cell named by `cell` was written and the queue was left alone; the staging buffers
keep their canonical form and the runs at work stay in the store when they were so before. -/
structure StoreEffect (cell : Option Nat) (s t : State) : Prop where
  mem : t.mem = s.mem ∨ ∃ n, cell = some n ∧ n < 4096 ∧ ∃ v, t.mem = writeCell s.mem n v
  pending : t.pending = s.pending
  staging : ∀ r, Memory.wf (s.ctx r).staging = true → Memory.wf (t.ctx r).staging = true
  runs : s.RunLaw → t.RunLaw

/-- Between `s` and `t` no cell was written. -/
abbrev Keeps (s t : State) : Prop := StoreEffect none s t

namespace StoreEffect

variable {s t u : State} {cell : Option Nat}

theorem mem_eq (h : Keeps s t) : t.mem = s.mem := h.mem.resolve_right (by simp)

theorem ofKeeps (h : Keeps s t) : StoreEffect cell s t := ⟨.inl h.mem_eq, h.pending, h.staging, h.runs⟩

theorem refl (s : State) : StoreEffect cell s s := ⟨.inl rfl, rfl, fun _ => id, id⟩

/-- A keeping step before an effect. -/
theorem after (h : StoreEffect cell t u) (k : Keeps s t) : StoreEffect cell s u where
  mem := by simpa only [k.mem_eq] using h.mem
  pending := h.pending.trans k.pending
  staging r := h.staging r ∘ k.staging r
  runs := h.runs ∘ k.runs

/-- A keeping step behind an effect. -/
theorem andKeeps (h : StoreEffect cell s t) (k : Keeps t u) : StoreEffect cell s u where
  mem := by simpa only [k.mem_eq] using h.mem
  pending := k.pending.trans h.pending
  staging r := k.staging r ∘ h.staging r
  runs := k.runs ∘ h.runs

/-- States with the same contexts and the same admin context differ by the cell that was written alone. -/
theorem ofSameWork (hm : t.mem = s.mem ∨ ∃ n, cell = some n ∧ n < 4096 ∧ ∃ v, t.mem = writeCell s.mem n v)
    (hp : t.pending = s.pending) (hc : t.contexts = s.contexts) (ha : t.adminCtx = s.adminCtx) :
    StoreEffect cell s t := by
  have hctx : ∀ r, t.ctx r = s.ctx r := fun r => by simp only [State.ctx, hc]
  refine ⟨hm, hp, fun r h => by rwa [hctx], fun h => ⟨fun r q hq => ?_, fun k g f n i m hx => ?_⟩⟩
  · exact h.rings r q (by rwa [hctx] at hq)
  · exact h.admin k g f n i m (ha ▸ hx)

/-- An effect that either branch of a test has. -/
theorem ite {c : Prop} [Decidable c] (ht : StoreEffect cell s t) (hu : StoreEffect cell s u) :
    StoreEffect cell s (if c then t else u) := by
  split
  · exact ht
  · exact hu

/-- An update of none of the fields the effect speaks of. -/
theorem ofFrame (hm : t.mem = s.mem) (hp : t.pending = s.pending) (hc : t.contexts = s.contexts)
    (ha : t.adminCtx = s.adminCtx) : StoreEffect cell s t := ofSameWork (.inl hm) hp hc ha

end StoreEffect

/-- Operations that keep the stores one by one keep them all together. -/
theorem keeps_foldl {α : Type} (f : State → α → State) (h : ∀ s x, Keeps s (f s x)) (xs : List α) (s : State) :
    Keeps s (xs.foldl f s) := by
  induction xs generalizing s with
  | nil => exact .refl s
  | cons x xs ih => exact (ih (f s x)).after (h s x)

/-! ### Contexts -/

/-- A context is replaced: its buffer stays canonical and it holds no request whose run leaves the store. -/
theorem keeps_setCtx (s : State) (r : RingId) (x : RingContext)
    (hx : Memory.wf (s.ctx r).staging = true → Memory.wf x.staging = true)
    (hq : s.RunLaw → ∀ q, x.work.request = some q → q.InStore) : Keeps s (s.setCtx r x) where
  mem := .inl rfl
  pending := rfl
  staging i h := by
    rw [State.ctx_setCtx]
    split
    · next e => subst e; exact hx h
    · exact h
  runs h := by
    refine ⟨fun i q hi => ?_, h.admin⟩
    rw [State.ctx_setCtx] at hi
    split at hi
    · exact hq h q hi
    · exact h.rings i q hi

/-- A context whose work state stays has its other fields replaced. -/
theorem keeps_setCtx_sameWork (s : State) (r : RingId) (x : RingContext)
    (hx : Memory.wf (s.ctx r).staging = true → Memory.wf x.staging = true) (hw : x.work = (s.ctx r).work) :
    Keeps s (s.setCtx r x) :=
  keeps_setCtx s r x hx fun h q hq => h.rings r q (hw ▸ hq)

theorem keeps_setWork (s : State) (r : RingId) (w : Work) (h : s.RunLaw → ∀ q, w.request = some q → q.InStore) :
    Keeps s (s.setWork r w) := keeps_setCtx s r _ id h

/-- A context that holds no request has no run. -/
theorem keeps_setWork_done (s : State) (r : RingId) (w : Work) (h : w.request = none) : Keeps s (s.setWork r w) :=
  keeps_setWork s r w fun _ q hq => by simp [h] at hq

theorem keeps_finish (s : State) (r : RingId) (quiet : Bool) (o : Report) : Keeps s (s.finish r quiet o) :=
  .ite (keeps_setWork_done s r _ rfl)
    ((keeps_setWork_done s r (.reporting o) rfl).andKeeps (.ofFrame rfl rfl rfl rfl))

theorem request_makeReady (w : Work) : w.makeReady.request = w.request := by
  cases w <;> rfl

theorem keeps_makeReady (s : State) : Keeps s s.makeReady where
  mem := .inl rfl
  pending := rfl
  staging r h := by rwa [State.ctx_makeReady]
  runs h := by
    refine ⟨fun r q hq => h.rings r q ?_, h.admin⟩
    rwa [State.ctx_makeReady, request_makeReady] at hq

/-! ### Frames of the shared operations that touch no context -/

theorem keeps_sendMessage (s : State) (v : VectorId) : Keeps s (s.sendMessage v) := by
  obtain ⟨q, h, y, l, e, -⟩ := s.sendMessage_frame v
  rw [e]
  exact .ofFrame rfl rfl rfl rfl

theorem keeps_releaseVector (s : State) (v : VectorId) : Keeps s (s.releaseVector v) := by
  obtain ⟨q, h, y, l, e, -⟩ := s.releaseVector_frame v
  rw [e]
  exact .ofFrame rfl rfl rfl rfl

theorem keeps_dropMessages (s : State) : Keeps s s.dropMessages := by
  obtain ⟨n, y, l, e, -⟩ := s.dropMessages_cases
  rw [e]
  exact .ofFrame rfl rfl rfl rfl

theorem keeps_setFault (s : State) (b : FaultBit) : Keeps s (s.setFault b) := by
  obtain ⟨f, q, h, y, l, e, -⟩ := s.setFault_frame b
  rw [e]
  exact .ofFrame rfl rfl rfl rfl

theorem keeps_chargeGrant (s : State) (q : Requester) : Keeps s (s.chargeGrant q) := by
  obtain ⟨p, k, e⟩ := s.chargeGrant_frame q
  rw [e]
  exact .ofFrame rfl rfl rfl rfl

theorem keeps_grant {s t : State} {q : Requester} (h : s.grant q = some t) : Keeps s t := by
  obtain ⟨p, k, o, rfl⟩ := s.grant_frame h
  exact .ofFrame rfl rfl rfl rfl

theorem keeps_moveOn (s : State) (c : CellId) (n : Option EntryId) : Keeps s (s.moveOn c n) := by
  obtain ⟨x, q, e⟩ := s.moveOn_frame c n
  rw [e]
  exact .ofFrame rfl rfl rfl rfl

theorem keeps_reportIf (s : State) (b : Bool) (c : CellId) : Keeps s (s.reportIf b c) := by
  obtain ⟨x, q, e⟩ := s.reportIf_frame b c
  rw [e]
  exact .ofFrame rfl rfl rfl rfl

theorem keeps_claimEnd (s : State) (st : Status) (e : EntryId) : Keeps s (s.claimEnd st e) := by
  obtain ⟨t, w, q, x, l, c, h⟩ := s.claimEnd_frame st e
  rw [h]
  exact .ofFrame rfl rfl rfl rfl

theorem keeps_claimAll (s : State) (st : Status) (es : List EntryId) : Keeps s (s.claimAll st es) :=
  keeps_foldl _ (fun s e => keeps_claimEnd s st e) es s

theorem keeps_setRing (s : State) (r : RingId) (x : RequestRing) : Keeps s (s.setRing r x) := .ofFrame rfl rfl rfl rfl

/-- A ring and its context are replaced together, the context's request and buffer kept. -/
theorem keeps_setRing_setCtx (s : State) (r : RingId) (x : RequestRing) (y : RingContext)
    (hs : y.staging = (s.ctx r).staging) (hw : y.work = (s.ctx r).work) : Keeps s ((s.setRing r x).setCtx r y) :=
  (keeps_setRing s r x).andKeeps (keeps_setCtx_sameWork _ r y (fun h => hs ▸ h) hw)

theorem keeps_setCRing (s : State) (c : CRingId) (x : CompletionRing) : Keeps s (s.setCRing c x) :=
  .ofFrame rfl rfl rfl rfl

theorem keeps_handOver (s : State) (w : PostedWrite) : Keeps s (s.handOver w) := .ofFrame rfl rfl rfl rfl

theorem keeps_release (s : State) (p : PlaceId) : Keeps s (s.release p) := .ofFrame rfl rfl rfl rfl

theorem keeps_removeFirst (s : State) (n : Nat) : Keeps s (s.removeFirst n) := .ofFrame rfl rfl rfl rfl

theorem keeps_freeEntry (s : State) (e : EntryId) : Keeps s (s.freeEntry e) := by
  cases h : s.entry e with
  | none => simp only [State.freeEntry, h]; exact .refl s
  | some x =>
    rw [s.freeEntry_some e x h]
    exact (keeps_makeReady _).after (.ofFrame rfl rfl rfl rfl)

/-! ### Starting requests and fences -/

theorem keeps_runCancel (s : State) (r : RingId) (h : Header) (value mask : BitVec 16) :
    Keeps s (s.runCancel r h value mask) := (keeps_finish _ _ _ _).after (keeps_claimAll s _ _)

/-- A bulk transfer starts with one update of its context. -/
theorem setWork_clearProgress (s : State) (r : RingId) (w : Work) :
    (s.clearProgress r).setWork r w = s.setCtx r { s.ctx r with work := w, progress := 0, changedMark := false } := by
  simp [State.setWork, State.clearProgress]

/-- A request whose run lies in the store starts. -/
theorem keeps_startRequest (s : State) (r : RingId) (q : Request) (hq : s.RunLaw → q.InStore) :
    Keeps s (s.startRequest r q) := by
  have held (h : s.RunLaw) (p : Request) (hp : some q = some p) : p.InStore := by cases hp; exact hq h
  unfold State.startRequest
  split
  · exact keeps_finish _ _ _ _
  · exact keeps_setWork _ _ _ held
  · exact keeps_setWork _ _ _ held
  · rw [setWork_clearProgress]; exact keeps_setCtx _ _ _ id held
  · rw [setWork_clearProgress]; exact keeps_setCtx _ _ _ id held
  · exact keeps_runCancel _ _ _ _ _

theorem keeps_releaseFence (s : State) (r : RingId) : Keeps s (s.releaseFence r) := by
  unfold State.releaseFence
  split
  · next q hw =>
    exact .ite (keeps_startRequest s r q fun h => h.rings r q (by rw [hw]; rfl)) (.refl s)
  · exact .refl s

theorem keeps_releaseFences (s : State) (rs : List RingId) : Keeps s (s.releaseFences rs) :=
  keeps_foldl _ keeps_releaseFence rs s

/-! ### Taking a record: validation admits no run that leaves the store (R32, R118) -/

/-- A validated bulk request names a run of the store. -/
theorem validateBulk_inStore {mk : Nat → Nat → HostAddr → Body} {g : RingConfig} {x : Slot} {b : Body}
    (h : validateBulk mk g x = .ok b) : ∃ f n a, b = mk f n a ∧ f + n ≤ 4096 := by
  simp only [validateBulk] at h
  split at h
  · cases h
  · split at h
    · next hr =>
      cases h
      simp only [RingConfig.runInWindow, Bool.and_eq_true, decide_eq_true_eq] at hr
      exact ⟨_, _, _, rfl, hr.2⟩
    · cases h

/-- A validated request is in the store, whatever its kind. -/
theorem validateRequest_inStore {g : RingConfig} {x : Slot} {y : Option Slot} {b : Body}
    (h : validateRequest g x y = .ok b) (hd : Header) : Request.InStore ⟨hd, b⟩ := by
  unfold validateRequest at h
  split at h
  · cases h
  · cases h; trivial
  · unfold validateUpdate at h
    repeat' split at h
    all_goals cases h
    trivial
  · unfold validateHold at h
    repeat' split at h
    all_goals cases h
    trivial
  · obtain ⟨f, n, a, rfl, hr⟩ := validateBulk_inStore h
    exact hr
  · obtain ⟨f, n, a, rfl, hr⟩ := validateBulk_inStore h
    exact hr
  · cases h; trivial

theorem keeps_fenceOrStart (s : State) (r : RingId) (q : Request) (hq : q.InStore) : Keeps s (s.fenceOrStart r q) :=
  .ite (keeps_setWork s r (.waitFence q) fun _ p hp => by cases hp; exact hq) (keeps_startRequest s r q fun _ => hq)

theorem keeps_takeRecord (s : State) (r : RingId) (x : Slot) (y : Option Slot) (n : Nat) :
    Keeps s (s.takeRecord r x y n) := by
  have hc : Keeps s (s.consumeSlots r n) := keeps_setRing _ _ _
  unfold State.takeRecord
  dsimp only
  split
  · exact (keeps_finish _ _ _ _).after hc
  · next b hb => exact (keeps_fenceOrStart _ _ _ (validateRequest_inStore hb _)).after hc

theorem keeps_takeKind (s : State) (r : RingId) (k : Option RequestKind) : Keeps s (s.takeKind r k) := by
  unfold State.takeKind
  split
  · exact .ite (keeps_takeRecord _ _ _ _ _) (.refl s)
  · exact .refl s

theorem keeps_takeHold (s : State) (r : RingId) : Keeps s (s.takeHold r) := by
  unfold State.takeHold
  split
  · exact .ite (keeps_takeRecord _ _ _ _ _) (.refl s)
  · exact .refl s

/-! ### Admin requests -/

/-- The admin context is replaced by work that names no run outside the store. -/
theorem keeps_adminCtx {s t : State} (hm : t.mem = s.mem) (hp : t.pending = s.pending) (hc : t.contexts = s.contexts)
    (ha : s.RunLaw → ∀ kind tag f n k m, t.adminCtx = .running kind tag f n k m → f + n ≤ 4096) : Keeps s t where
  mem := .inl hm
  pending := hp
  staging r h := by simpa only [State.ctx, hc] using h
  runs h := ⟨fun r q hq => h.rings r q (by simpa only [State.ctx, hc] using hq), ha h⟩

theorem keeps_finishAdmin (s : State) (o : Report) : Keeps s (s.finishAdmin o) :=
  keeps_adminCtx rfl rfl rfl fun _ _ _ _ _ _ _ h => by simp [State.finishAdmin] at h

theorem keeps_endAdmin (s : State) (x : Slot) (st : Status) (n : Nat) (v : Option CellValue) :
    Keeps s (s.endAdmin x st n v) := keeps_finishAdmin _ _

/-- An admin request is taken and carried out by an operation that keeps the stores. -/
theorem keeps_takeAdmin (s : State) (k : Option AdminKind) (f : State → Slot → State) (hf : ∀ t x, Keeps t (f t x)) :
    Keeps s (s.takeAdmin k f) := by
  unfold State.takeAdmin
  split
  · exact .ite ((hf _ _).after (.ofFrame rfl rfl rfl rfl)) (.refl s)
  · exact .refl s

theorem keeps_configureRing (s : State) (x : Slot) : Keeps s (s.configureRing x) := by
  unfold State.configureRing
  split
  · exact keeps_endAdmin _ _ _ _ _
  · split
    · exact keeps_endAdmin _ _ _ _ _
    · exact .ite ((keeps_endAdmin _ _ _ _ _).after (keeps_setRing _ _ _)) (keeps_endAdmin _ _ _ _ _)

theorem keeps_startRing (s : State) (x : Slot) : Keeps s (s.startRing x) := by
  unfold State.startRing
  split
  · exact keeps_endAdmin _ _ _ _ _
  · exact .ite ((keeps_endAdmin _ _ _ _ _).after (keeps_setRing _ _ _)) (keeps_endAdmin _ _ _ _ _)

theorem keeps_stopRing (s : State) (x : Slot) : Keeps s (s.stopRing x) := by
  unfold State.stopRing
  split
  · exact keeps_endAdmin _ _ _ _ _
  · split
    · exact (keeps_endAdmin _ _ _ _ _).after (keeps_setRing _ _ _)
    all_goals exact keeps_endAdmin _ _ _ _ _

theorem keeps_abortRequest (s : State) (r : RingId) (q : Request) (n : Nat) (m : Bool) :
    Keeps s (s.abortRequest r q n m) := by
  refine (keeps_finish _ _ _ _).after ?_
  exact .ite (keeps_setCtx_sameWork s r _ id rfl) (.refl s)

theorem keeps_abortContext (s : State) (r : RingId) : Keeps s (s.abortContext r) := by
  unfold State.abortContext
  split
  · exact .refl s
  · exact keeps_abortRequest _ _ _ _ _
  · exact keeps_abortRequest _ _ _ _ _
  · exact keeps_abortRequest _ _ _ _ _
  · exact keeps_abortRequest _ _ _ _ _
  · exact .refl s

theorem keeps_resetIndices (s : State) (r : RingId) : Keeps s (s.resetIndices r) :=
  keeps_setRing_setCtx s r _ _ rfl rfl

theorem keeps_resetRing (s : State) (x : Slot) : Keeps s (s.resetRing x) := by
  unfold State.resetRing
  split
  · exact keeps_endAdmin _ _ _ _ _
  · next r _ =>
    have taken : Keeps s (s.resetTaken r) :=
      ((keeps_resetIndices s r).andKeeps (keeps_claimAll _ _ _)).andKeeps (keeps_abortContext _ r)
    exact .ite (keeps_endAdmin _ _ _ _ _) (taken.andKeeps (keeps_endAdmin _ _ _ _ _))

theorem keeps_configureCRing (s : State) (x : Slot) : Keeps s (s.configureCRing x) := by
  unfold State.configureCRing
  split
  · exact keeps_endAdmin _ _ _ _ _
  · split
    · exact keeps_endAdmin _ _ _ _ _
    · exact .ite (keeps_endAdmin _ _ _ _ _) ((keeps_endAdmin _ _ _ _ _).after (keeps_setCRing _ _ _))

theorem keeps_discard (s : State) (x : Source) : Keeps s (s.discard x) := by
  cases x with
  | entry e => exact keeps_freeEntry s e
  | ring r => exact keeps_setWork_done s r _ rfl
  | admin => exact .refl s

theorem keeps_resetCRing (s : State) (x : Slot) : Keeps s (s.resetCRing x) := by
  unfold State.resetCRing
  split
  · exact keeps_endAdmin _ _ _ _ _
  · next c _ =>
    have taken : Keeps s (s.resetCRingTaken c) :=
      (keeps_foldl _ keeps_discard (s.cring c).list s).andKeeps (keeps_setCRing _ _ _)
    exact .ite (keeps_endAdmin _ _ _ _ _) (taken.andKeeps (keeps_endAdmin _ _ _ _ _))

theorem keeps_cancelWaiting (s : State) (r : RingId) : Keeps s (s.cancelWaiting r) := by
  unfold State.cancelWaiting
  split
  · exact keeps_finish _ _ _ _
  · exact .refl s

theorem keeps_cancelRings (s : State) (rs : List RingId) (value mask : BitVec 16) :
    Keeps s (s.cancelRings rs value mask) :=
  ((keeps_claimAll s _ _).andKeeps (keeps_foldl _ keeps_cancelWaiting _ _)).andKeeps (keeps_releaseFences _ rs)

theorem keeps_cancelHoldsRequest (s : State) (x : Slot) : Keeps s (s.cancelHoldsRequest x) := by
  unfold State.cancelHoldsRequest
  split
  · exact keeps_endAdmin _ _ _ _ _
  · exact (keeps_endAdmin _ _ _ _ _).after (keeps_cancelRings _ _ _ _)

/-- A CLEAR CELLS is taken only with a run of the store (R129). -/
theorem keeps_clearCellsRequest (s : State) (x : Slot) : Keeps s (s.clearCellsRequest x) := by
  unfold State.clearCellsRequest
  dsimp only
  split
  · exact keeps_endAdmin _ _ _ _ _
  · next hrange =>
    refine keeps_adminCtx rfl rfl rfl fun _ kind tag f n k m h => ?_
    simp only [AdminWork.running.injEq] at h
    obtain ⟨-, -, rfl, rfl, -, -⟩ := h
    simp only [Bool.or_eq_true, decide_eq_true_eq, not_or, not_lt] at hrange
    exact hrange.2

theorem keeps_readStatusRequest (s : State) (x : Slot) : Keeps s (s.readStatusRequest x) := by
  unfold State.readStatusRequest
  split <;> exact keeps_endAdmin _ _ _ _ _

/-! ### Registers and device states -/

theorem keeps_indexPost (s : State) (w : Word32) : Keeps s (s.indexPost w) := by
  have fault : Keeps s (s.setFault .postError) := keeps_setFault s _
  unfold State.indexPost
  refine .ite fault ?_
  dsimp only
  split
  · exact .ite (keeps_setRing _ _ _) fault
  · refine .ite (.ite (.ofFrame rfl rfl rfl rfl) fault) ?_
    split
    · exact .ite (keeps_setCRing _ _ _) fault
    · exact .ite (.ite (.ofFrame rfl rfl rfl rfl) fault) fault

theorem keeps_adminRegisterWrite (s : State) (f : State → State) (hf : Keeps s (f s)) :
    Keeps s (s.adminRegisterWrite f) := .ite hf (keeps_setFault _ _)

theorem keeps_enterResetting (s : State) (mid : Bool) : Keeps s (s.enterResetting mid) := by
  unfold State.enterResetting
  split
  · exact .refl s
  · dsimp only
    split
    · exact (keeps_chargeGrant s _).andKeeps (.ofFrame rfl rfl rfl rfl)
    · exact .ofFrame rfl rfl rfl rfl

theorem keeps_enable (s : State) : Keeps s s.enable :=
  .ite (keeps_adminCtx rfl rfl rfl fun _ _ _ _ _ _ _ h => nomatch h) (keeps_setFault _ _)

theorem keeps_controlWrite (s : State) (w : Word32) (mid : Bool) : Keeps s (s.controlWrite w mid) :=
  .ite (keeps_enterResetting s mid) (.ite (keeps_enable s) (.refl s))

theorem keeps_writeRegister (s : State) (offset size : Nat) (w : Word32) : Keeps s (s.writeRegister offset size w) := by
  refine .ite (.refl s) ?_
  split
  · exact keeps_controlWrite _ _ _
  · exact .ofFrame rfl rfl rfl rfl
  · exact keeps_adminRegisterWrite _ _ (.ofFrame rfl rfl rfl rfl)
  · exact keeps_adminRegisterWrite _ _ (.ofFrame rfl rfl rfl rfl)
  · exact keeps_adminRegisterWrite _ _ (.ofFrame rfl rfl rfl rfl)
  · exact keeps_indexPost _ _
  · exact .refl s

/-- An access that reaches the part does what its register does. -/
theorem keeps_access (s : State) (f : State → State) (hf : Keeps s (f s)) : Keeps s (s.access f) :=
  .ite hf (.refl s)

theorem keeps_readRegister (s : State) (offset : Nat) (bytes : List Byte) :
    Keeps s ((s.takeSnapshot offset).sendReply bytes) := by
  unfold State.takeSnapshot State.sendReply
  repeat' split
  all_goals exact .ofFrame rfl rfl rfl rfl

theorem ctx_reset (r : RingId) : State.reset.ctx r = RingContext.reset := by simp [State.reset, State.ctx]

theorem ctx_functionReset (s : State) (r : RingId) : s.functionReset.ctx r = RingContext.reset := ctx_reset r

theorem keeps_functionReset (s : State) : Keeps s s.functionReset where
  mem := .inl rfl
  pending := rfl
  staging r _ := by rw [ctx_functionReset]; rfl
  runs _ :=
    { rings := fun r q hq => by rw [ctx_functionReset] at hq; cases hq
      admin := fun _ _ _ _ _ _ h => nomatch h }

/-! ### Time, reads and completions -/

theorem keeps_fetchFault (s : State) (r : RingId) : Keeps s (s.fetchFault r) :=
  .ite (keeps_setRing_setCtx s r _ _ rfl rfl) (.refl s)

theorem keeps_adminFetchFault (s : State) : Keeps s s.adminFetchFault :=
  (keeps_setFault _ _).after ((keeps_makeReady s).andKeeps (.ofFrame rfl rfl rfl rfl))

theorem keeps_bulkFault (s : State) (r : RingId) : Keeps s (s.bulkFault r) := by
  unfold State.bulkFault
  split
  · exact keeps_finish _ _ _ _
  · exact .refl s

theorem keeps_returnFault (s : State) (p : PlaceId) (x : Read) : Keeps s (s.returnFault p x) := by
  obtain ⟨-, h⟩ | ⟨-, ⟨r, -, h⟩ | ⟨-, h⟩ | ⟨r, -, h⟩⟩ := s.returnFault_cases p x <;> rw [h]
  · exact keeps_release s p
  · exact (keeps_fetchFault _ r).after (keeps_release s p)
  · exact (keeps_adminFetchFault _).after (keeps_release s p)
  · exact (keeps_bulkFault _ r).after (keeps_release s p)

/-- Returned data is handled by an operation that keeps the stores, dropped, or a fault. -/
theorem keeps_returnData (s : State) (p : PlaceId) (x : Read) (n : Nat) (f : State → State)
    (hf : ∀ t, Keeps t (f t)) : Keeps s (s.returnData p x n f) :=
  .ite (.refl s) (.ite (.ite ((hf _).after (keeps_release s p)) (keeps_release s p)) (keeps_returnFault s p x))

/-- Bulk data enters the staging buffer in canonical form, for the request that waited for it (R124). -/
theorem keeps_bulkData (s : State) (r : RingId) (data : List CellValue) : Keeps s (s.bulkData r data) := by
  unfold State.bulkData
  dsimp only
  split
  · next q hw =>
    exact keeps_setCtx s r _ (wf_writeCells _ 0 data) fun h p hp => h.rings r p (by rw [hw]; exact hp)
  · exact .refl s

theorem keeps_issueBulkRead (s : State) (p : PlaceId) (r : RingId) : Keeps s (s.issueBulkRead p r) := by
  unfold State.issueBulkRead
  split
  · next q b hw =>
    split
    · exact (keeps_setWork _ r _ fun h p hp => h.rings r p (by
        rw [State.setPlace_ctx, hw]; exact hp)).after (.ofFrame rfl rfl rfl rfl)
    · exact .refl s
  · exact .refl s

theorem keeps_deliver (s : State) (x : Source) : Keeps s (s.deliver x) := by
  cases x with
  | entry e => exact keeps_freeEntry s e
  | ring r => exact keeps_setWork_done s r _ rfl
  | admin => exact keeps_adminCtx rfl rfl rfl fun _ _ _ _ _ _ _ h => by simp [State.deliver] at h

theorem keeps_writeRingRecord (s : State) (c : CRingId) : Keeps s (s.writeRingRecord c) := by
  unfold State.writeRingRecord
  dsimp only
  split
  · exact .refl s
  · split
    · exact .refl s
    · refine (keeps_deliver _ _).after ?_
      have written (x : CompletionRing) (w : PostedWrite) : Keeps s ((s.handOver w).setCRing c x) :=
        .ofFrame rfl rfl rfl rfl
      exact .ite ((written _ _).andKeeps (keeps_sendMessage _ _)) (written _ _)

theorem keeps_writeAdminRecord (s : State) : Keeps s s.writeAdminRecord := by
  unfold State.writeAdminRecord
  dsimp only
  split
  · exact .refl s
  · split
    · exact .refl s
    · refine (keeps_deliver _ _).after (StoreEffect.andKeeps ?_ (keeps_sendMessage _ _))
      exact .ofFrame rfl rfl rfl rfl

/-! ### Cell-port operations: one cell each (R15) -/

/-- The store after a cell was stored: unchanged, or with the cell written. -/
theorem storeCell_mem (m : List Host.Cell) (c : Nat) (v : CellValue) :
    (storeCell m c v).1 = m ∨ ∃ w, (storeCell m c v).1 = writeCell m c w := by
  unfold storeCell
  split <;> dsimp only
  · exact .inl rfl
  · exact .inr ⟨v, rfl⟩

/-- The store after an action: unchanged, or with the target written (R12, R15). -/
theorem performAction_mem (m : List Host.Cell) (act : Action) :
    (performAction m act).mem = m ∨ ∃ v, (performAction m act).mem = writeCell m act.target v := by
  unfold performAction
  split
  · exact .inl rfl
  · exact storeCell_mem _ _ _

/-- The store is replaced by itself or by itself with one cell written. -/
theorem effect_setMem (s : State) {m : List Host.Cell} {n : Nat} (hn : n < 4096)
    (h : m = s.mem ∨ ∃ v, m = writeCell s.mem n v) : StoreEffect (some n) s { s with mem := m } :=
  .ofSameWork (h.imp_right fun w => ⟨n, rfl, hn, w⟩) rfl rfl rfl

theorem effect_performAction (s : State) (act : Action) :
    StoreEffect (some act.target.val) s { s with mem := (performAction s.mem act).mem } :=
  effect_setMem s act.target.isLt (performAction_mem _ _)

theorem effect_fireAtArrival (s : State) (r : RingId) (h : Header) (act : Action) (w : CellValue) :
    StoreEffect (some act.target.val) s (s.fireAtArrival r h act w) :=
  ((effect_performAction s act).andKeeps (keeps_finish _ _ _ _)).andKeeps (keeps_reportIf _ _ _)

theorem effect_runUpdate (s : State) (r : RingId) (h : Header) (act : Action) :
    StoreEffect (some act.target.val) s (s.runUpdate r h act) := effect_fireAtArrival s r h act 0

theorem keeps_armOrWait (s : State) (r : RingId) (q : Request) (act : Action) (k : Condition) (d : Option Time)
    (hq : q.InStore) : Keeps s (s.armOrWait r q act k d) := by
  unfold State.armOrWait
  refine .ite (keeps_finish _ _ _ _) ?_
  split
  · exact keeps_setWork s r _ fun _ p hp => by cases hp; exact hq
  · exact (keeps_setWork_done _ r _ rfl).after (.ofFrame rfl rfl rfl rfl)

theorem effect_holdArrival (s : State) (r : RingId) (q : Request) (act : Action) (k : Condition) (n : BitVec 32)
    (hq : q.InStore) : StoreEffect (some act.target.val) s (s.holdArrival r q act k n) :=
  .ite (effect_fireAtArrival _ _ _ _ _)
    (.ite (.ofKeeps (keeps_finish _ _ _ _)) (.ofKeeps (keeps_armOrWait _ _ _ _ _ _ hq)))

theorem effect_holdRetry (s : State) (r : RingId) (q : Request) (act : Action) (k : Condition) (d : Option Time)
    (hq : q.InStore) : StoreEffect (some act.target.val) s (s.holdRetry r q act k d) :=
  .ite (effect_fireAtArrival _ _ _ _ _)
    (.ite (.ofKeeps (keeps_finish _ _ _ _)) (.ofKeeps (keeps_armOrWait _ _ _ _ _ _ hq)))

theorem effect_fireEntry (s : State) (e : EntryId) (x : HoldEntry) (w : CellValue) :
    StoreEffect (some x.act.target.val) s (s.fireEntry e x w) := by
  have dropped : StoreEffect (some x.act.target.val) s
      (State.dropEntry { s with mem := (performAction s.mem x.act).mem } e x.cond.cell) :=
    (effect_performAction s x.act).andKeeps (.ofFrame rfl rfl rfl rfl)
  refine StoreEffect.andKeeps ?_ (keeps_reportIf _ _ _)
  exact .ite (dropped.andKeeps (keeps_freeEntry _ _)) (dropped.andKeeps (.ofFrame rfl rfl rfl rfl))

theorem effect_testEntry (s : State) (c : CellId) (e : EntryId) (x : HoldEntry) :
    StoreEffect (some x.act.target.val) s (s.testEntry c e x) :=
  .ite (((effect_fireEntry s e x _).andKeeps (keeps_moveOn _ _ _)).andKeeps (keeps_releaseFence _ _))
    (.ofKeeps (keeps_moveOn _ _ _))

theorem keeps_stageCell (s : State) (r : RingId) (cell k : Nat) : Keeps s (s.stageCell r cell k) := by
  refine keeps_setCtx_sameWork s r _ (fun h => ?_) rfl
  dsimp only
  exact wf_writeCell _ _ _ h

theorem keeps_endBulkRead (s : State) (r : RingId) (h : Header) (n : Nat) (host : HostAddr) :
    Keeps s (s.endBulkRead r h n host) := (keeps_finish _ _ _ _).after (keeps_handOver _ _)

theorem effect_storeStaged (s : State) (r : RingId) (cell k : Nat) (hc : cell < 4096) :
    StoreEffect (some cell) s (s.storeStaged r cell k).1 :=
  (effect_setMem s hc (storeCell_mem s.mem cell _)).andKeeps (keeps_setCtx_sameWork _ r
    { s.ctx r with
      progress := k + 1
      changedMark := (s.ctx r).changedMark || (storeCell s.mem cell (readCell (s.ctx r).staging k)).2 } id rfl)

/-- The admin context after a clear holds the run that it held. -/
theorem keeps_advanceClear (s : State) (kind : Byte) (tag : BitVec 16) (f n k : Nat) (m : Bool)
    (h : s.RunLaw → f + n ≤ 4096) : Keeps s (s.advanceClear kind tag f n k m) := by
  refine .ite (keeps_adminCtx rfl rfl rfl fun hs _ _ _ _ _ _ hx => ?_) (keeps_finishAdmin _ _)
  simp only [AdminWork.running.injEq] at hx
  obtain ⟨-, -, rfl, rfl, -, -⟩ := hx
  exact h hs

/-! ### Every command (R15, R22) -/

/-- The outcome of a command that may write the cells `cell`: every next state has the effect, and while the runs at
work lie in the store there is one (log entry 26). -/
structure Answers (cell : Option Nat) (s : State) (o : Host.Outcome State Fault Refusal) : Prop where
  effect : ∀ t, o = .next t → StoreEffect cell s t
  total : s.RunLaw → ∃ t, o = .next t

theorem answers_next {cell : Option Nat} {s t : State} (h : StoreEffect cell s t) : Answers cell s (.next t) where
  effect _ e := by cases e; exact h
  total _ := ⟨t, rfl⟩

theorem answers_same (cell : Option Nat) (s : State) : Answers cell s (.next s) := answers_next (.refl s)

/-- A fault that no state with its runs in the store reaches. -/
theorem answers_fault {cell : Option Nat} {s : State} {x : Fault} (h : ¬ s.RunLaw) : Answers cell s (.fault x) where
  effect _ e := by cases e
  total hs := absurd hs h

/-! The commands whose meaning is a test of the state, by their tests. -/

theorem answers_expiry (s : State) : Answers none s (execExpiry s) := by
  refine answers_next ?_
  split
  · exact .refl s
  · split
    · exact .ite ((keeps_claimEnd _ _ _).andKeeps (keeps_releaseFence _ _)) (.refl s)
    · exact .refl s

theorem answers_waitEntryTimeout (r : RingId) (s : State) : Answers none s (execWaitEntryTimeout r s) := by
  refine answers_next ?_
  split
  · exact .ite (keeps_finish _ _ _ _) (.refl s)
  · exact .refl s

theorem answers_holdoffExpiry (c : CRingId) (s : State) : Answers none s (execHoldoffExpiry c s) :=
  answers_next (.ite ((keeps_setCRing _ _ _).andKeeps (keeps_sendMessage _ _)) (.refl s))

theorem answers_readTimeout (p : PlaceId) (s : State) : Answers none s (execReadTimeout p s) := by
  refine answers_next ?_
  split
  · exact .ite (keeps_returnFault _ _ _) (.refl s)
  · exact .refl s

theorem answers_fetchReadIssue (s : State) : Answers none s (execFetchReadIssue s) := by
  refine answers_next (.ite ?_ (.refl s))
  split
  · exact .refl s
  · refine .ite (.ofFrame rfl rfl rfl rfl) ?_
    split
    · exact .ofFrame rfl rfl rfl rfl
    · exact .refl s

theorem answers_fetchReadFault (p : PlaceId) (s : State) : Answers none s (execFetchReadFault p s) := by
  refine answers_next ?_
  split
  · split
    · exact keeps_returnFault _ _ _
    · exact .refl s
  · exact .refl s

theorem answers_adminFetchReadFault (p : PlaceId) (s : State) : Answers none s (execAdminFetchReadFault p s) := by
  refine answers_next ?_
  split
  · split
    · exact keeps_returnFault _ _ _
    · exact .refl s
  · exact .refl s

theorem answers_bulkDataFault (p : PlaceId) (s : State) : Answers none s (execBulkDataFault p s) := by
  refine answers_next ?_
  split
  · split
    · exact keeps_returnFault _ _ _
    · exact .refl s
  · exact .refl s

theorem answers_fetchReadReturn (p : PlaceId) (data : List Slot) (s : State) :
    Answers none s (execFetchReadReturn p data s) := by
  refine answers_next ?_
  split
  · split
    · exact keeps_returnData _ _ _ _ _ (fun t => .ite (keeps_setRing t _ _) (.refl t))
    · exact .refl s
  · exact .refl s

theorem answers_adminFetchReturn (p : PlaceId) (data : List Slot) (s : State) :
    Answers none s (execAdminFetchReturn p data s) := by
  refine answers_next ?_
  split
  · split
    · exact keeps_returnData _ _ _ _ _ (fun _ => .ofFrame rfl rfl rfl rfl)
    · exact .refl s
  · exact .refl s

theorem answers_bulkDataReturn (p : PlaceId) (data : List CellValue) (s : State) :
    Answers none s (execBulkDataReturn p data s) := by
  refine answers_next ?_
  split
  · split
    · exact keeps_returnData _ _ _ _ _ (fun t => keeps_bulkData t _ _)
    · exact .refl s
  · exact .refl s

theorem answers_bulkDataReadIssue (s : State) : Answers none s (execBulkDataReadIssue s) := by
  refine answers_next (.ite ?_ (.refl s))
  split
  · exact keeps_issueBulkRead _ _ _
  · exact .refl s

theorem answers_fetchEventEntry (r : RingId) (s : State) : Answers none s (execFetchEventEntry r s) := by
  refine answers_next ?_
  split
  · exact .ite ((keeps_setCtx_sameWork s r { s.ctx r with event := none } id rfl).andKeeps
      (keeps_finish _ _ _ _)) (.refl s)
  · exact .refl s

theorem answers_drainEnd (r : RingId) (s : State) : Answers none s (execDrainEnd r s) :=
  answers_next (.ite (keeps_setRing _ _ _) (.refl s))

theorem answers_completionRecordWrite (l : ListId) (s : State) : Answers none s (execCompletionRecordWrite l s) := by
  refine answers_next (.ite ?_ (.refl s))
  cases l with
  | admin => exact keeps_writeAdminRecord s
  | ring c => exact keeps_writeRingRecord s c

theorem answers_heldMessageRelease (s : State) : Answers none s (execHeldMessageRelease s) := by
  refine answers_next ?_
  split
  · exact keeps_releaseVector _ _
  · exact .refl s

theorem answers_postedWriteDepart (s : State) : Answers none s (execPostedWriteDepart s) := by
  refine answers_next (.ite ?_ (.refl s))
  split
  · exact .refl s
  · exact (keeps_removeFirst _ _).after (.ofFrame rfl rfl rfl rfl)

theorem answers_configurationSpaceWrite (cfg : ConfigSpace) (s : State) :
    Answers none s (execConfigurationSpaceWrite cfg s) :=
  answers_next ((keeps_dropMessages _).after (.ite (.ofFrame rfl rfl rfl rfl) (.ofFrame rfl rfl rfl rfl)))

/-! The cell-port operations, each under the request, the entry or the clear that names its cell. -/

theorem answers_updateOperation (r : RingId) (s : State) :
    Answers (s.writtenCell (.updateOperation r)) s (execUpdateOperation r s) := by
  refine answers_next ?_
  split
  · next h act hw =>
    split
    · next s1 hg =>
      simp only [State.writtenCell, hw, Work.request, Option.bind_some]
      exact (effect_runUpdate s1 r h act).after (keeps_grant hg)
    · exact .refl s
  · exact .refl s

theorem answers_holdArrival (r : RingId) (s : State) :
    Answers (s.writtenCell (.holdArrival r)) s (execHoldArrival r s) := by
  refine answers_next ?_
  split
  · next h act k n hw =>
    split
    · next s1 hg =>
      simp only [State.writtenCell, hw, Work.request, Option.bind_some]
      exact (effect_holdArrival s1 r ⟨h, .hold act k n⟩ act k n trivial).after (keeps_grant hg)
    · exact .refl s
  · exact .refl s

theorem answers_holdRetry (r : RingId) (s : State) :
    Answers (s.writtenCell (.holdRetry r)) s (execHoldRetry r s) := by
  refine answers_next ?_
  split
  · next h act k n d hw =>
    split
    · next s1 hg =>
      simp only [State.writtenCell, hw, Work.request, Option.bind_some]
      exact (effect_holdRetry s1 r ⟨h, .hold act k n⟩ act k d trivial).after (keeps_grant hg)
    · exact .refl s
  · exact .refl s

theorem answers_scanStep (s : State) : Answers (s.writtenCell .scanStep) s (execScanStep s) := by
  refine answers_next ?_
  split
  · next c e hs =>
    split
    · next x hx =>
      split
      · split
        · next s1 hg =>
          simp only [State.writtenCell, hs, hx, Option.map_some]
          exact (effect_testEntry s1 c e x).after (keeps_grant hg)
        · exact .refl s
      · exact .refl s
    · exact .refl s
  · exact .refl s

/-- The next cell of a request at work lies in the store while its run does. -/
theorem runLaw_inStore {s : State} {r : RingId} {q : Request} (hw : (s.ctx r).work = .running q) (hs : s.RunLaw) :
    q.InStore := hs.rings r q (by rw [hw]; rfl)

theorem answers_bulkReadCell (r : RingId) (s : State) :
    Answers (s.writtenCell (.bulkReadCell r)) s (execBulkReadCell r s) := by
  unfold execBulkReadCell
  split
  · next h f n host hw =>
    dsimp only
    split
    · next hk =>
      split
      · next s1 hg =>
        split
        · next hf =>
          refine answers_fault fun hs => ?_
          have hrun : f + n ≤ 4096 := runLaw_inStore hw hs
          omega
        · have staged : Keeps s (s1.stageCell r (f + (s.ctx r).progress) (s.ctx r).progress) :=
            (keeps_stageCell _ _ _ _).after (keeps_grant hg)
          exact answers_next (.ite staged (staged.andKeeps (keeps_endBulkRead _ _ _ _ _)))
      · exact answers_same _ s
    · exact answers_same _ s
  · exact answers_same _ s

theorem answers_bulkWriteCell (r : RingId) (s : State) :
    Answers (s.writtenCell (.bulkWriteCell r)) s (execBulkWriteCell r s) := by
  unfold execBulkWriteCell
  split
  · next h f n host hw =>
    dsimp only
    split
    · next hk =>
      split
      · next s1 hg =>
        split
        · next hc =>
          simp only [State.writtenCell, hw, Work.request, Option.bind_some]
          have stored := (effect_storeStaged s1 r _ (s.ctx r).progress hc).after (keeps_grant hg)
          exact answers_next ((StoreEffect.ite stored (stored.andKeeps (keeps_finish _ _ _ _))).andKeeps
            (keeps_reportIf _ _ _))
        · next hc =>
          refine answers_fault fun hs => ?_
          have hrun : f + n ≤ 4096 := runLaw_inStore hw hs
          omega
      · exact answers_same _ s
    · exact answers_same _ s
  · exact answers_same _ s

theorem answers_clearCellsCell (s : State) : Answers (s.writtenCell .clearCellsCell) s (execClearCellsCell s) := by
  unfold execClearCellsCell
  split
  · next kind tag f n k m ha =>
    split
    · next hk =>
      split
      · next s1 hg =>
        split
        · next hc =>
          simp only [State.writtenCell, ha]
          have stored : StoreEffect (some (f + k)) s { s1 with mem := (storeCell s1.mem (f + k) 0).1 } :=
            (effect_setMem s1 hc (storeCell_mem s1.mem (f + k) 0)).after (keeps_grant hg)
          have hrun : State.RunLaw { s1 with mem := (storeCell s1.mem (f + k) 0).1 } → f + n ≤ 4096 := fun h =>
            h.admin kind tag f n k m (by
              obtain ⟨p, c, o, rfl⟩ := s.grant_frame hg
              exact ha)
          exact answers_next ((stored.andKeeps (keeps_advanceClear _ kind tag f n k _ hrun)).andKeeps
            (keeps_reportIf _ _ _))
        · next hc =>
          refine answers_fault fun hs => ?_
          have hrun := hs.admin kind tag f n k m ha
          omega
      · exact answers_same _ s
    · exact answers_same _ s
  · exact answers_same _ s

/-- Every command but POWER_ON_RESET writes at most the cell that it targets, leaves the queue alone, and goes on while
the runs at work lie in the store (R15, R22, log entry 26). -/
theorem exec_answers (c : Instr) (s : State) (hc : c ≠ .powerOnReset) : Answers (s.writtenCell c) s (exec c s) := by
  cases c with
  | powerOnReset => exact absurd rfl hc
  | linkReset mid => exact answers_next ((keeps_enterResetting s mid).andKeeps (.ofFrame rfl rfl rfl rfl))
  | controlEnable w => exact answers_next (keeps_access s _ (keeps_controlWrite _ _ _))
  | controlReset w mid => exact answers_next (keeps_access s _ (keeps_controlWrite _ _ _))
  | resetValuesTaken => exact answers_next (.ite (keeps_functionReset s) (.refl s))
  | faultWrite w => exact answers_next (keeps_access s _ (.ofFrame rfl rfl rfl rfl))
  | adminBaseLowWrite w =>
    exact answers_next (keeps_access s _ (keeps_adminRegisterWrite _ _ (.ofFrame rfl rfl rfl rfl)))
  | adminBaseHighWrite w =>
    exact answers_next (keeps_access s _ (keeps_adminRegisterWrite _ _ (.ofFrame rfl rfl rfl rfl)))
  | adminSizeWrite w =>
    exact answers_next (keeps_access s _ (keeps_adminRegisterWrite _ _ (.ofFrame rfl rfl rfl rfl)))
  | requestRingProducerPost w => exact answers_next (keeps_access s _ (keeps_indexPost _ _))
  | adminProducerPost w => exact answers_next (keeps_access s _ (keeps_indexPost _ _))
  | completionConsumerPost w => exact answers_next (keeps_access s _ (keeps_indexPost _ _))
  | adminCompletionConsumerPost w => exact answers_next (keeps_access s _ (keeps_indexPost _ _))
  | timeLowRead first count => exact answers_next (keeps_access s _ (keeps_readRegister _ _ _))
  | registerWriteIgnored offset size w => exact answers_next (keeps_access s _ (keeps_writeRegister _ _ _ _))
  | microsecondTick => exact answers_next (.ofFrame rfl rfl rfl rfl)
  | expiry => exact answers_expiry s
  | waitEntryTimeout r => exact answers_waitEntryTimeout r s
  | holdoffExpiry c => exact answers_holdoffExpiry c s
  | readTimeout p => exact answers_readTimeout p s
  | fetchReadIssue => exact answers_fetchReadIssue s
  | fetchReadReturn p data => exact answers_fetchReadReturn p data s
  | fetchReadFault p => exact answers_fetchReadFault p s
  | adminFetchReturn p data => exact answers_adminFetchReturn p data s
  | adminFetchReadFault p => exact answers_adminFetchReadFault p s
  | bulkDataReadIssue => exact answers_bulkDataReadIssue s
  | bulkDataReturn p data => exact answers_bulkDataReturn p data s
  | bulkDataFault p => exact answers_bulkDataFault p s
  | nop r => exact answers_next (keeps_takeKind s r _)
  | unknownKind r => exact answers_next (keeps_takeKind s r _)
  | update r => exact answers_next (keeps_takeKind s r _)
  | updateOperation r => exact answers_updateOperation r s
  | hold r => exact answers_next (keeps_takeHold s r)
  | holdArrival r => exact answers_holdArrival r s
  | holdRetry r => exact answers_holdRetry r s
  | scanStep => exact answers_scanStep s
  | bulkRead r => exact answers_next (keeps_takeKind s r _)
  | bulkReadCell r => exact answers_bulkReadCell r s
  | bulkWrite r => exact answers_next (keeps_takeKind s r _)
  | bulkWriteCell r => exact answers_bulkWriteCell r s
  | cancel r => exact answers_next (keeps_takeKind s r _)
  | fetchEventEntry r => exact answers_fetchEventEntry r s
  | drainEnd r => exact answers_drainEnd r s
  | completionRecordWrite l => exact answers_completionRecordWrite l s
  | heldMessageRelease => exact answers_heldMessageRelease s
  | postedWriteDepart => exact answers_postedWriteDepart s
  | adminNop => exact answers_next (keeps_takeAdmin s _ _ fun t x => keeps_endAdmin t x _ _ _)
  | adminUnknownKind => exact answers_next (keeps_takeAdmin s _ _ fun t x => keeps_endAdmin t x _ _ _)
  | configureRequestRing => exact answers_next (keeps_takeAdmin s _ _ keeps_configureRing)
  | configureCompletionRing => exact answers_next (keeps_takeAdmin s _ _ keeps_configureCRing)
  | startRing => exact answers_next (keeps_takeAdmin s _ _ keeps_startRing)
  | stopRing => exact answers_next (keeps_takeAdmin s _ _ keeps_stopRing)
  | resetRing => exact answers_next (keeps_takeAdmin s _ _ keeps_resetRing)
  | resetCompletionRing => exact answers_next (keeps_takeAdmin s _ _ keeps_resetCRing)
  | cancelHolds => exact answers_next (keeps_takeAdmin s _ _ keeps_cancelHoldsRequest)
  | clearCells => exact answers_next (keeps_takeAdmin s _ _ keeps_clearCellsRequest)
  | clearCellsCell => exact answers_clearCellsCell s
  | readStatus => exact answers_next (keeps_takeAdmin s _ _ keeps_readStatusRequest)
  | configurationSpaceWrite cfg => exact answers_configurationSpaceWrite cfg s

/-! ### The bytes that a write lists -/

/-- A write lists nothing but its own key and what was listed. -/
theorem mem_sparsePut {β : Type} [DecidableEq β] {d : β} {m : List (Nat × β)} {a : Nat} {b : β} {x : Nat × β}
    (h : x ∈ sparsePut d m a b) : x = (a, b) ∨ x ∈ m := by
  induction m with
  | nil =>
    unfold sparsePut at h
    split at h
    · exact .inr h
    · exact .inl (List.mem_singleton.1 h)
  | cons p rest ih =>
    obtain ⟨k, v⟩ := p
    unfold sparsePut at h
    split at h
    · split at h
      · exact .inr h
      · exact List.mem_cons.1 h
    · split at h
      · split at h
        · exact .inr (List.mem_cons_of_mem _ h)
        · exact (List.mem_cons.1 h).imp_right (List.mem_cons_of_mem _)
      · rcases List.mem_cons.1 h with h | h
        · exact .inr (h ▸ List.mem_cons_self)
        · exact (ih h).imp_right (List.mem_cons_of_mem _)

/-- The bytes that a cell write lists are those of its cell and those listed before (R2). -/
theorem mem_writeCell {m : List Host.Cell} {c : Nat} {v : CellValue} {x : Host.Cell} (h : x ∈ writeCell m c v) :
    (16 * c ≤ x.1 ∧ x.1 < 16 * c + 16) ∨ x ∈ m := by
  have below (n : Nat) : ∀ x ∈ (List.range n).foldl (fun m k => writeByte m (16 * c + k) (cellByte v k)) m,
      (16 * c ≤ x.1 ∧ x.1 < 16 * c + n) ∨ x ∈ m := by
    induction n with
    | zero => exact fun x hx => .inr hx
    | succ n ih =>
      intro x hx
      rw [List.range_succ, List.foldl_append, List.foldl_cons, List.foldl_nil] at hx
      rcases mem_sparsePut hx with rfl | hx
      · exact .inl ⟨by simp, by simp⟩
      · exact (ih x hx).imp_left fun ⟨h1, h2⟩ => ⟨h1, by omega⟩
  exact below 16 x h

/-! ### The laws of the stores and of the runs, step by step -/

/-- The state with another queue of commands meets the same laws of the stores and of the runs. -/
theorem storeLaw_pending {s : State} (l : List Instr) (h : s.StoreLaw) : State.StoreLaw { s with pending := l } :=
  ⟨h.cells, h.bound, h.staging⟩

theorem runLaw_pending {s : State} (l : List Instr) (h : s.RunLaw) : State.RunLaw { s with pending := l } :=
  ⟨h.rings, h.admin⟩

/-- What an effect leaves is in canonical form and within the 4096 cells. -/
theorem StoreEffect.storeLaw {s t : State} {cell : Option Nat} (h : StoreEffect cell s t) (hs : s.StoreLaw) :
    t.StoreLaw := by
  obtain ⟨hm | ⟨n, -, hn, v, hm⟩, -, hst, -⟩ := h
  · exact ⟨hm ▸ hs.cells, hm ▸ hs.bound, fun r => hst r (hs.staging r)⟩
  · refine ⟨hm ▸ wf_writeCell _ _ _ hs.cells, fun x hx => ?_, fun r => hst r (hs.staging r)⟩
    rw [hm] at hx
    rcases mem_writeCell hx with hx | hx
    · omega
    · exact hs.bound x hx

/-- An effect leaves every byte outside its cell alone (R15). -/
theorem StoreEffect.readByte_eq {s t : State} {cell : Option Nat} (h : StoreEffect cell s t)
    (hs : Memory.wf s.mem = true) (a : Nat) (ha : ∀ n, cell = some n → a < 16 * n ∨ 16 * n + 16 ≤ a) :
    readByte t.mem a = readByte s.mem a := by
  obtain ⟨hm | ⟨n, hc, -, v, hm⟩, -, -, -⟩ := h
  · rw [hm]
  · have := ha n hc
    rw [hm, readByte_writeCell _ _ _ hs, if_neg (by omega)]

theorem storeLaw_reset : State.reset.StoreLaw := ⟨rfl, nofun, fun r => by rw [ctx_reset]; rfl⟩

theorem runLaw_reset : State.reset.RunLaw where
  rings r q h := by rw [ctx_reset] at h; cases h
  admin _ _ _ _ _ _ h := nomatch h

/-- A property that no command but POWER_ON_RESET loses, that the reset state has and that does not speak of the queue
is kept by every step. -/
theorem step_keeps (P : State → Prop) (hp : ∀ s l, P s → P { s with pending := l }) (hr : P State.reset)
    (he : ∀ s t cell, StoreEffect cell s t → P s → P t) {s t : State} (hs : P s) (h : step s = .next t) : P t := by
  unfold step at h
  split at h
  · cases h; exact hs
  · next c rest _ =>
    by_cases hc : c = .powerOnReset
    · subst hc
      cases h
      exact hp _ _ hr
    · exact he _ _ _ ((exec_answers c _ hc).effect t h) (hp s rest hs)

/-! ### The obligations -/

/-- Settles O49: at most the target cell is written, whose bytes lie among those of the 4096 cells. -/
theorem stepsKeepTheStores : Obligations.StepsKeepTheStores := fun _ _ hs h =>
  step_keeps State.StoreLaw (fun _ l => storeLaw_pending l) storeLaw_reset (fun _ _ _ he => he.storeLaw) hs h

/-- Settles O58: a command has the effect of its target cell alone. -/
theorem cellsChangeOnlyAtTheirTarget : Obligations.CellsChangeOnlyAtTheirTarget := fun s t c hs hc h a ha =>
  ((exec_answers c s hc).effect t h).readByte_eq hs a ha

/-- Settles O2: validation admits no run that leaves the store, and no other step makes one. -/
theorem runsAtWorkStayInTheStore : Obligations.RunsAtWorkStayInTheStore := fun _ _ hs h =>
  step_keeps State.RunLaw (fun _ l => runLaw_pending l) runLaw_reset (fun _ _ _ he => he.runs) hs h

/-- Settles O3: the one fault is that of a cell outside the store, which no run at work reaches. -/
theorem everyCommandReachesANextState : Obligations.EveryCommandReachesANextState := fun c s hs => by
  by_cases hc : c = .powerOnReset
  · subst hc
    exact ⟨_, rfl, rfl⟩
  · have answers := exec_answers c s hc
    obtain ⟨t, ht⟩ := answers.total hs
    exact ⟨t, ht, (answers.effect t ht).pending⟩

end Sys2Proof.Machine
end

section
/-! PROOFS. The reset state: every accessor's value, and the laws that it meets (R168). -/

namespace Sys2Proof.Machine

theorem ring_reset (r : RingId) : State.reset.ring r = RequestRing.reset := by simp [State.reset, State.ring]

theorem cring_reset (c : CRingId) : State.reset.cring c = CompletionRing.reset := by simp [State.reset, State.cring]

theorem entry_reset (e : EntryId) : State.reset.entry e = none := by simp [State.reset, State.entry]

theorem occ_reset (r : RingId) : State.reset.occ r = 0 := by simp [State.reset, State.occ]

theorem watchList_reset (c : CellId) : State.reset.watchList c = [] := rfl

/-- No entry is ARMED after a reset. -/
theorem armedWith_reset (f : HoldEntry → Bool) (e : EntryId) : State.reset.armedWith f e = false := by
  simp [State.armedWith, entry_reset]

theorem entriesOf_reset (r : RingId) : State.reset.entriesOf r = [] := by simp [State.entriesOf, entry_reset]

/-- The Hold Table is FREE and every list empty, so that each membership holds on both sides of none (R46, R57). -/
theorem holdLaw_reset : State.reset.HoldLaw where
  watchForm := rfl
  watchNodup c := by rw [watchList_reset]; exact .nil
  watchExact c e := by simp [watchList_reset, armedWith_reset]
  deadlineNodup := .nil
  deadlineExact e := by rw [armedWith_reset]; exact iff_of_false List.not_mem_nil Bool.false_ne_true
  occupancyExact r := by simp [occ_reset, entriesOf_reset]
  listNodup c := by rw [cring_reset]; exact .nil
  listEntry c e := by simp [cring_reset, entry_reset, CompletionRing.reset]
  listRing c r := by simp [cring_reset, ctx_reset, CompletionRing.reset, RingContext.reset, Work.code]
  listNoAdmin c := by simp [cring_reset, CompletionRing.reset]
  adminList := rfl

theorem quotaLaw_reset : State.reset.QuotaLaw := fun r => by rw [occ_reset]; exact Nat.zero_le _

theorem wakeLaw_reset : State.reset.WakeLaw := ⟨.nil, nofun, fun _ => rfl, nofun⟩

theorem noLostWakeup_reset : State.reset.NoLostWakeup := fun e x h => by rw [entry_reset] at h; cases h

theorem ringLaw_reset : State.reset.RingLaw := fun r => by rw [ring_reset]; exact .inl rfl

theorem cringLaw_reset : State.reset.CRingLaw := fun c => by rw [cring_reset]; exact .inl rfl

theorem queueLaw_reset : State.reset.QueueLaw := ⟨Nat.zero_le _, nofun⟩

/-- Every cell reads 0 after a power-on reset (R1). -/
theorem readCell_reset (c : Nat) : readCell State.reset.mem c = 0 := by
  refine BitVec.eq_of_getLsbD_eq fun i hi => ?_
  rw [getLsbD_readCell _ c i hi, readByte_reset]
  simp

/-- Settles O48, law by law: every accessor reads its reset value. -/
theorem resetMeetsTheLaws : Obligations.ResetMeetsTheLaws :=
  ⟨storeLaw_reset, runLaw_reset, holdLaw_reset, quotaLaw_reset, wakeLaw_reset, noLostWakeup_reset, ringLaw_reset,
    cringLaw_reset, queueLaw_reset, rfl, readCell_reset⟩

end Sys2Proof.Machine
end

section
/-! PROOFS. The ops of a cell operation on a scoped value and on the lanes of its scope, with their flags (R3 to
R13). -/

namespace Sys2Proof.Machine

/-! ### Lanes (R2) -/

/-- A bit of a value with given lanes is a bit of its lane. -/
theorem getLsbD_ofLanes (l1 l0 : Lane) (i : Nat) :
    (ofLanes l1 l0).getLsbD i = if i < 64 then l0.getLsbD i else l1.getLsbD (i - 64) := by
  unfold ofLanes
  exact BitVec.getLsbD_append

@[simp] theorem lane0_ofLanes (l1 l0 : Lane) : lane0 (ofLanes l1 l0) = l0 := by
  refine BitVec.eq_of_getLsbD_eq fun i hi => ?_
  rw [lane0, BitVec.getLsbD_extractLsb', getLsbD_ofLanes, if_pos (by omega), Nat.zero_add, decide_eq_true hi,
    Bool.true_and]

@[simp] theorem lane1_ofLanes (l1 l0 : Lane) : lane1 (ofLanes l1 l0) = l1 := by
  refine BitVec.eq_of_getLsbD_eq fun i hi => ?_
  rw [lane1, BitVec.getLsbD_extractLsb', getLsbD_ofLanes, if_neg (by omega), Nat.add_sub_cancel_left,
    decide_eq_true hi, Bool.true_and]

/-- A value is its two lanes (R2). -/
theorem ofLanes_lanes (v : CellValue) : ofLanes (lane1 v) (lane0 v) = v := by
  refine BitVec.eq_of_getLsbD_eq fun i hi => ?_
  rw [getLsbD_ofLanes]
  split
  · next hlow => simp [lane0, hlow]
  · next hlow =>
    have hhigh : i - 64 < 64 := by omega
    rw [lane1, BitVec.getLsbD_extractLsb', Nat.add_sub_cancel' (Nat.le_of_not_lt hlow), decide_eq_true hhigh,
      Bool.true_and]

/-- A value with given lanes differs from `v` exactly when a lane does. -/
theorem ofLanes_ne_iff (l1 l0 : Lane) (v : CellValue) : ofLanes l1 l0 ≠ v ↔ l0 ≠ lane0 v ∨ l1 ≠ lane1 v := by
  rw [← not_and_or, not_iff_not]
  constructor
  · rintro rfl; simp
  · rintro ⟨rfl, rfl⟩; exact ofLanes_lanes v

/-! ### ADD (R7) -/

theorem toNat_add_eq_sum_emod {w : Nat} (v a : BitVec w) :
    ((v + a).toNat : Int) = ((v.toNat : Int) + a.toInt) % 2 ^ w := by
  rw [BitVec.toNat_add, BitVec.toInt_eq_toNat_cond]
  push_cast
  split
  · rfl
  · rw [← add_sub_assoc, Int.sub_emod_right]

theorem addWraps_iff {w : Nat} (v a : BitVec w) :
    addWraps v a = true ↔ ((v.toNat : Int) + a.toInt < 0 ∨ (2 ^ w : Int) ≤ (v.toNat : Int) + a.toInt) := by
  simp [addWraps]

/-- A sum outside its width is not the value it started from: adding 0 never wraps. -/
theorem add_ne_of_addWraps {w : Nat} (v a : BitVec w) (h : addWraps v a = true) : v + a ≠ v := by
  intro hv
  have ha : a = 0#w := by simpa using hv
  subst ha
  have hlt : (v.toNat : Int) < 2 ^ w := by exact_mod_cast v.isLt
  rw [addWraps_iff, BitVec.toInt_zero] at h
  omega

/-- Settles O46: the true sum modulo `2 ^ w`, and lane by lane under a scope. -/
theorem addWrapsOutsideItsScope : Obligations.AddWrapsOutsideItsScope := by
  refine ⟨fun w v a b _ => ⟨toNat_add_eq_sum_emod v a, addWraps_iff v a, rfl, add_ne_of_addWraps v a⟩,
    fun v a b => ⟨rfl, rfl, rfl, rfl, lane0_ofLanes _ _, lane1_ofLanes _ _, rfl, fun sc h => ?_⟩⟩
  cases sc with
  | lane0 => exact (ofLanes_ne_iff _ _ v).2 (.inl (add_ne_of_addWraps _ _ h))
  | lane1 => exact (ofLanes_ne_iff _ _ v).2 (.inr (add_ne_of_addWraps _ _ h))
  | pair =>
    refine (ofLanes_ne_iff _ _ v).2 ?_
    exact (Bool.or_eq_true_iff.1 h).imp (add_ne_of_addWraps _ _) (add_ne_of_addWraps _ _)
  | whole => exact add_ne_of_addWraps v a h

/-! ### The other ops on a scoped value (R5 to R12) -/

theorem getLsbD_opValue_merge {w : Nat} (v a b : BitVec w) (i : Nat) :
    (opValue .merge v a b).getLsbD i = if b.getLsbD i then a.getLsbD i else v.getLsbD i := by
  by_cases hi : i < w
  · simp only [opValue, BitVec.getLsbD_or, BitVec.getLsbD_and, BitVec.getLsbD_not, hi, decide_true, Bool.true_and]
    cases b.getLsbD i <;> simp
  · simp [opValue, BitVec.getLsbD_of_ge _ _ (Nat.le_of_not_lt hi)]

theorem getLsbD_opValue_clear {w : Nat} (v a b : BitVec w) (i : Nat) :
    (opValue .clear v a b).getLsbD i = (v.getLsbD i && !a.getLsbD i) := by
  by_cases hi : i < w
  · simp [opValue, hi]
  · simp [opValue, BitVec.getLsbD_of_ge _ _ (Nat.le_of_not_lt hi)]

/-- SET of bits that are set already changes nothing. -/
theorem opValue_set_eq_self {w : Nat} (v a b : BitVec w) (h : ∀ i, a.getLsbD i → v.getLsbD i) :
    opValue .set v a b = v := by
  refine BitVec.eq_of_getLsbD_eq fun i _ => ?_
  have hi := h i
  cases ha : a.getLsbD i <;> simp_all [opValue]

/-- CLEAR of bits that are clear already changes nothing. -/
theorem opValue_clear_eq_self {w : Nat} (v a b : BitVec w) (h : ∀ i, a.getLsbD i → v.getLsbD i = false) :
    opValue .clear v a b = v := by
  refine BitVec.eq_of_getLsbD_eq fun i _ => ?_
  have hi := h i
  rw [getLsbD_opValue_clear]
  cases ha : a.getLsbD i <;> simp_all

/-- MERGE under a full mask takes the operand. -/
theorem opValue_merge_allOnes {w : Nat} (v a : BitVec w) : opValue .merge v a (BitVec.allOnes w) = a := by
  simp [opValue]

/-- MERGE under an empty mask leaves the value. -/
theorem opValue_merge_zero {w : Nat} (v a : BitVec w) : opValue .merge v a 0 = v := by
  simp [opValue]

theorem opValue_max_toNat {w : Nat} (v a b : BitVec w) : (opValue .max v a b).toNat = max v.toNat a.toNat := by
  simp only [opValue]
  split <;> omega

theorem opValue_min_toNat {w : Nat} (v a b : BitVec w) : (opValue .min v a b).toNat = min v.toNat a.toNat := by
  simp only [opValue]
  split <;> omega

theorem opValue_max_ne_iff {w : Nat} (v a b : BitVec w) : opValue .max v a b ≠ v ↔ v.toNat < a.toNat := by
  rw [Ne, BitVec.toNat_inj.symm, opValue_max_toNat]
  omega

theorem opValue_min_ne_iff {w : Nat} (v a b : BitVec w) : opValue .min v a b ≠ v ↔ a.toNat < v.toNat := by
  rw [Ne, BitVec.toNat_inj.symm, opValue_min_toNat]
  omega

/-- ADD alone sets WRAP (R7, R13). -/
theorem opWrap_eq_false {w : Nat} {op : Op} (v a : BitVec w) (h : op ≠ .add) : opWrap op v a = false := by
  cases op with
  | add => exact absurd rfl h
  | _ => rfl

/-- CSWAP alone sets MATCHED (R10, R13). -/
theorem opMatched_eq_false {w : Nat} {op : Op} (v b : BitVec w) (h : op ≠ .cswap) : opMatched op v b = false := by
  cases op with
  | cswap => exact absurd rfl h
  | _ => rfl

/-! ### Scopes (R3) -/

/-- ADD alone sets WRAP, whatever the scope. -/
theorem scopedWrap_eq_false {op : Op} (sc : Scope) (v a : CellValue) (h : op ≠ .add) :
    scopedWrap op sc v a = false := by
  cases sc <;> simp [scopedWrap, opWrap_eq_false _ _ h]

/-- Settles O45: each op bit by bit or by comparison, then the lanes of each scope. -/
theorem opsChangeTheirScopeAsGiven : Obligations.OpsChangeTheirScopeAsGiven := by
  refine ⟨fun w v a b => ⟨rfl, rfl, rfl, rfl, fun i => BitVec.getLsbD_or, getLsbD_opValue_clear v a b,
    fun i => BitVec.getLsbD_xor, getLsbD_opValue_merge v a b, opValue_set_eq_self v a b, opValue_clear_eq_self v a b,
    BitVec.xor_zero, opValue_merge_allOnes v a, opValue_merge_zero v a, fun h => ⟨if_pos h, decide_eq_true h⟩,
    fun h => ⟨if_neg h, decide_eq_false h⟩, opValue_max_toNat v a b, opValue_min_toNat v a b,
    opValue_max_ne_iff v a b, opValue_min_ne_iff v a b, fun op hop => ⟨opWrap_eq_false v a ?_, opMatched_eq_false v b⟩⟩,
    fun op v a b => ⟨⟨lane0_ofLanes _ _, lane1_ofLanes _ _⟩, ⟨lane0_ofLanes _ _, lane1_ofLanes _ _⟩,
      ⟨lane0_ofLanes _ _, lane1_ofLanes _ _⟩, rfl, fun sc t => ?_, fun sc t v' => ⟨scopedWrap_eq_false sc v a, ?_⟩⟩⟩
  · rintro rfl
    simp at hop
  · simp only [opFlags]
    cases sc with
    | lane0 => simp [scopedValue, ofLanes_ne_iff]
    | lane1 => simp [scopedValue, ofLanes_ne_iff]
    | pair => simp [scopedValue, ofLanes_ne_iff]
    | whole => rfl
  · cases sc <;> rfl

end Sys2Proof.Machine
end

section
/-! PROOFS. The arbiter of the Cell Port: who is granted, and the pointer and the credit that a grant leaves (R18 to
R21, R121, R174). -/

namespace Sys2Proof.Machine

/-! ### Work -/

theorem placeFree_iff (s : State) : s.placeFree = true ↔ s.postq.length < 16 := decide_eq_true_iff

theorem anyHeld_eq_false (s : State) : s.anyHeld = false ↔ ∀ v : VectorId, s.held[v] = none := by
  simp [State.anyHeld]

theorem hasRoom_iff (s : State) :
    s.hasRoom = true ↔ s.postq.length < 16 ∧ ∀ v : VectorId, s.held[v] = none := by
  rw [State.hasRoom, Bool.and_eq_true, Bool.not_eq_true', placeFree_iff, anyHeld_eq_false]

/-- The requests at work that ask for a cell-port operation of ring `r` (R19): the last cell of a BULK READ only while
its data write finds a place (R121). -/
theorem hasWork_iff (s : State) (r : RingId) : s.hasWork r = true ↔
    ∃ q, ((s.ctx r).work = .running q ∧ ((∃ act, q.body = .update act) ∨ (∃ a k t, q.body = .hold a k t) ∨
        (∃ f n h, q.body = .bulkRead f n h ∧ ((s.ctx r).progress + 1 < n ∨
          ((s.ctx r).progress + 1 = n ∧ s.bulkRoom = true))) ∨
        ∃ f n h, q.body = .bulkWrite f n h ∧ (s.ctx r).progress < n)) ∨
      ∃ d, (s.ctx r).work = .waitEntry q d true := by
  cases hw : (s.ctx r).work with
  | running q =>
    obtain ⟨h, body⟩ := q
    cases body with
    | bulkRead f n host =>
      have hlast : (s.ctx r).progress < n ∧ ((s.ctx r).progress + 1 < n ∨ s.bulkRoom = true) ↔
          (s.ctx r).progress + 1 < n ∨ ((s.ctx r).progress + 1 = n ∧ s.bulkRoom = true) := by
        cases s.bulkRoom with
        | true => simp only [or_true, and_true]; omega
        | false => simp only [Bool.false_eq_true, or_false, and_false]; omega
      simpa [State.hasWork, hw] using hlast
    | _ => simp [State.hasWork, hw]
  | _ => simp [State.hasWork, hw]

theorem adminHasWork_iff (s : State) :
    s.adminHasWork = true ↔ ∃ kind tag f n k m, s.adminCtx = .running kind tag f n k m ∧ k < n := by
  cases h : s.adminCtx <;> simp [State.adminHasWork, h]

/-! ### The round robin (R20) -/

/-- The ring at the pointer keeps its turn while it has work and credit. -/
theorem chooseRing_pointer (s : State) (hw : s.hasWork s.arbPointer = true) (hc : 0 < s.arbCredit) :
    s.chooseRing = some (s.arbPointer, s.arbCredit - 1) := by
  simp [State.chooseRing, hw, hc]

theorem length_ringsAfter (r : RingId) : (ringsAfter r).length = 8 := by simp [ringsAfter]

theorem getElem_ringsAfter (r : RingId) (k : Nat) (h : k < (ringsAfter r).length) :
    (ringsAfter r)[k] = r + 1 + Fin.ofNat 8 k := by
  have hk : k < 8 := by rwa [length_ringsAfter] at h
  have hof : Fin.ofNat 8 k = ⟨k, hk⟩ := Fin.ext (Nat.mod_eq_of_lt hk)
  rw [hof]
  simp [ringsAfter]

/-- Otherwise the turn goes to the first ring with work after the pointer. -/
theorem chooseRing_next (s : State) (hn : s.hasWork s.arbPointer = false ∨ s.arbCredit = 0) {k : Nat} (hk : k < 8)
    (hbefore : ∀ j, j < k → s.hasWork (s.arbPointer + 1 + Fin.ofNat 8 j) = false)
    (hw : s.hasWork (s.arbPointer + 1 + Fin.ofNat 8 k) = true) :
    s.chooseRing = some (s.arbPointer + 1 + Fin.ofNat 8 k,
      (s.ring (s.arbPointer + 1 + Fin.ofNat 8 k)).config.weight - 1) := by
  have hpointer : ¬ (s.hasWork s.arbPointer && decide (0 < s.arbCredit)) = true := by
    rcases hn with h | h <;> simp [h]
  have hfirst : (ringsAfter s.arbPointer).find? s.hasWork = some (s.arbPointer + 1 + Fin.ofNat 8 k) := by
    rw [List.find?_eq_some_iff_getElem]
    refine ⟨hw, k, (length_ringsAfter _).symm ▸ hk, getElem_ringsAfter _ _ _, fun j hj => ?_⟩
    rw [getElem_ringsAfter, hbefore j hj]
    rfl
  rw [State.chooseRing, if_neg hpointer, hfirst]
  rfl

/-! ### Grants (R18, R21) -/

/-- In RUNNING the requester that the arbiter chooses holds the grant. -/
theorem grant_chosen (s : State) {q : Requester} (hd : s.device = .running) (h : s.chosen = some q) :
    s.grant q = some (s.chargeGrant q) := by
  simp [State.grant, hd, h]

/-- In RUNNING no one else holds it. -/
theorem grant_of_chosen_ne (s : State) {p q : Requester} (hd : s.device = .running) (h : s.chosen = some p)
    (hne : q ≠ p) : s.grant q = none := by
  simp [State.grant, hd, h, hne.symm]

/-- A request ring that the round robin names holds the grant, charged, and no other ring does. -/
theorem grant_ring (s : State) (hd : s.device = .running) (hs : s.scan = .idle) (ha : s.adminHasWork = false)
    {r : RingId} {k : Nat} (hr : s.chooseRing = some (r, k)) :
    s.grant (.ring r) = some { s with arbPointer := r, arbCredit := k } ∧ ∀ i, i ≠ r → s.grant (.ring i) = none := by
  have hc : s.chosen = some (.ring r) := (s.chosen_ring r).2 ⟨hs, ha, k, hr⟩
  refine ⟨?_, fun i hi => grant_of_chosen_ne s hd hc fun h => hi (Requester.ring.inj h)⟩
  rw [grant_chosen s hd hc, s.chargeGrant_ring r r k hr]

theorem grant_eq_none_of_not_chosen (s : State) {q : Requester} (hd : s.device = .running) (h : s.chosen ≠ some q) :
    s.grant q = none := by
  simp [State.grant, hd, h]

/-- Settles O27: who is chosen (R18), what the round robin names (R20), and what has work (R19, R121). -/
theorem grantsFollowTheArbiter : Obligations.GrantsFollowTheArbiter := by
  refine ⟨fun s hd => ⟨fun hs => ?_, fun hs ha => ?_, fun hs ha => ?_⟩, fun s r => ?_, adminHasWork_iff,
    fun s q hd => ?_, fun s q hd => ?_⟩
  · have hc : s.chosen = some .scan := s.chosen_scan.2 hs
    exact ⟨grant_chosen s hd hc, grant_of_chosen_ne s hd hc nofun, fun r => grant_of_chosen_ne s hd hc nofun⟩
  · have hc : s.chosen = some .admin := s.chosen_admin.2 ⟨hs, ha⟩
    exact ⟨grant_of_chosen_ne s hd hc nofun, grant_chosen s hd hc, fun r => grant_of_chosen_ne s hd hc nofun⟩
  · refine ⟨?_, ?_, fun hw hk => ?_, fun hn k hk => ?_⟩
    · exact grant_eq_none_of_not_chosen s hd fun h => s.chosen_scan.1 h hs
    · exact grant_eq_none_of_not_chosen s hd fun h => absurd (s.chosen_admin.1 h).2 (by simp [ha])
    · exact grant_ring s hd hs ha (chooseRing_pointer s hw hk)
    · exact fun hbefore hw => grant_ring s hd hs ha (chooseRing_next s hn hk hbefore hw)
  · rw [hasWork_iff, s.bulkRoom_iff, hasRoom_iff]
    simp only [and_assoc]
  · rcases hd with hd | hd <;> simp [State.grant, hd]
  · simp [State.grant, hd]

end Sys2Proof.Machine
end

section
/-! PROOFS. When a condition holds (R25, R26): masked parts of a cell compared as unsigned numbers. -/

namespace Sys2Proof.Machine

-- One proof at a time: each further thread of the compile takes 1 GB of the check's fixed memory.
set_option Elab.async false

/-- The part of a cell value that a condition's lane selector takes, as an unsigned number (R2, R25). -/
def selectedPart (sel : LaneSel) (v : CellValue) : Nat :=
  match sel with
  | .lane0 => v.toNat % 2 ^ 64
  | .lane1 => v.toNat / 2 ^ 64
  | .whole => v.toNat

/-- What a relation says of two unsigned numbers (Table 2-2). -/
def Relation.Meets (rel : Relation) (x y : Nat) : Prop :=
  match rel with
  | .eq => x = y
  | .ne => x ≠ y
  | .geu => y ≤ x
  | .ltu => x < y

theorem toNat_lane0 (v : CellValue) : (lane0 v).toNat = selectedPart .lane0 v := by
  simp [lane0, selectedPart, BitVec.extractLsb'_toNat]

theorem toNat_lane1 (v : CellValue) : (lane1 v).toNat = selectedPart .lane1 v := by
  have := v.isLt
  rw [lane1, selectedPart, BitVec.extractLsb'_toNat, Nat.shiftRight_eq_div_pow]
  omega

theorem lane0_and (v m : CellValue) : lane0 (v &&& m) = lane0 v &&& lane0 m := BitVec.extractLsb'_and

theorem lane1_and (v m : CellValue) : lane1 (v &&& m) = lane1 v &&& lane1 m := BitVec.extractLsb'_and

/-- A relation of two values is that of their unsigned numbers (R26). -/
theorem relationHolds_iff {w : Nat} (rel : Relation) (x y : BitVec w) :
    relationHolds rel x y = true ↔ rel.Meets x.toNat y.toNat := by
  cases rel <;> simp [relationHolds, Relation.Meets, BitVec.toNat_inj]

/-- A condition holds when its relation meets the masked parts of its cell and of its value (R26). -/
theorem holds_iff (k : Condition) (w : CellValue) :
    k.holds w = true ↔ k.rel.Meets (selectedPart k.sel (w &&& k.mask)) (selectedPart k.sel (k.value &&& k.mask)) := by
  unfold Condition.holds
  cases k.sel with
  | lane0 => rw [relationHolds_iff, ← lane0_and, ← lane0_and, toNat_lane0, toNat_lane0]
  | lane1 => rw [relationHolds_iff, ← lane1_and, ← lane1_and, toNat_lane1, toNat_lane1]
  | whole => exact relationHolds_iff _ _ _

/-- Under an empty mask every part is 0. -/
theorem selectedPart_and_eq_zero (sel : LaneSel) (v : CellValue) {m : CellValue} (h : selectedPart sel m = 0) :
    selectedPart sel (v &&& m) = 0 := by
  cases sel with
  | lane0 =>
    rw [← toNat_lane0] at h ⊢
    rw [lane0_and, BitVec.toNat_and, h, Nat.and_zero]
  | lane1 =>
    rw [← toNat_lane1] at h ⊢
    rw [lane1_and, BitVec.toNat_and, h, Nat.and_zero]
  | whole =>
    simp only [selectedPart] at h ⊢
    rw [BitVec.toNat_and, h, Nat.and_zero]

/-- A number meets itself under EQ and GEU alone. -/
theorem meets_self_iff (rel : Relation) (x : Nat) : rel.Meets x x ↔ rel = .eq ∨ rel = .geu := by
  cases rel <;> simp [Relation.Meets]

/-- Settles O47: a condition reads its cell and its value through their masked parts alone. -/
theorem conditionsCompareMaskedValues : Obligations.ConditionsCompareMaskedValues := by
  refine fun k w => ⟨holds_iff k w, fun v hv => ?_, fun hm => ?_⟩
  · have hv' : selectedPart k.sel (v &&& k.mask) = selectedPart k.sel (k.value &&& k.mask) := hv
    rw [Bool.eq_iff_iff, holds_iff, holds_iff]
    simp only [hv']
  · have hm' : selectedPart k.sel k.mask = 0 := hm
    rw [holds_iff, selectedPart_and_eq_zero _ _ hm', selectedPart_and_eq_zero _ _ hm', meets_self_iff]

end Sys2Proof.Machine
end

section
/-! PROOFS. The claims that time brings (R43, R76, R80, R146): the comparison of a deadline with the time base, and the
hand-over of a holdoff timer's message (R174, R176). -/

namespace Sys2Proof.Machine

-- One proof at a time: each further thread of the compile takes 1 GB of the check's fixed memory.
set_option Elab.async false

/-! ### Deadlines (R76) -/

theorem expired_iff (d t : Time) : expired d t = true ↔ (t.toNat + 2 ^ 48 - d.toNat) % 2 ^ 48 < 2 ^ 47 := by
  have := d.isLt
  rw [expired, decide_eq_true_iff, BitVec.toNat_sub, ← Nat.sub_add_comm (by omega), Nat.add_comm (2 ^ 48)]

theorem expired_eq_false_iff (d t : Time) :
    expired d t = false ↔ 2 ^ 47 ≤ (t.toNat + 2 ^ 48 - d.toNat) % 2 ^ 48 := by
  rw [← Bool.not_eq_true, expired_iff, Nat.not_lt]

/-! ### Ends that are no OK (R111, R143) -/

/-- A request that ends with another status than OK is reported, QUIET or not (R111, R143). -/
theorem finish_not_ok (s : State) (r : RingId) (h : Header) (st : Status) (v : Option CellValue)
    (hst : st ≠ .ok) :
    s.finish r h.quiet (h.report st .none v 0 s.now32) =
      (s.setWork r (.reporting ⟨st, h.kind, h.tag, ⟨false, false, false⟩, v, 0, s.timeBase.setWidth 32⟩)).joinList
        (s.ring r).config.cring (.ring r) :=
  s.finish_reported r h.quiet _ (.inr hst)

/-! ### The claims, due and not due -/

/-- EXPIRY claims the head of the deadline list when that has expired, and nothing before (R80). -/
theorem exec_expiry (s : State) {e : EntryId} {rest : List EntryId} {x : HoldEntry} {d : Time}
    (hd : s.device = .running) (hl : s.deadlines = e :: rest) (he : s.entry e = some x) (hx : x.deadline = some d) :
    exec .expiry s =
      .next (if expired d s.timeBase then (s.claimEnd .timeout e).releaseFence x.origin else s) := by
  change execExpiry s = _
  simp [execExpiry, hl, he, hd, hx]

/-- WAIT_ENTRY_TIMEOUT ends a waiting hold whose deadline is reached, and nothing before (R43). -/
theorem exec_waitEntryTimeout (s : State) {r : RingId} {q : Request} {d : Time} {ready : Bool}
    (hd : s.device = .running) (hw : (s.ctx r).work = .waitEntry q (some d) ready) :
    exec (.waitEntryTimeout r) s =
      .next (if expired d s.timeBase then
        s.finish r q.header.quiet (q.header.report .timeout .none none 0 s.now32) else s) := by
  change execWaitEntryTimeout r s = _
  simp [execWaitEntryTimeout, hw, hd]

/-- Completion ring `c` once its message has been called for: the count is clear and the timer stopped (R146). -/
def State.stopHoldoff (s : State) (c : CRingId) : State :=
  s.setCRing c { s.cring c with unsignalled := 0, timer := none }

theorem exec_holdoffExpiry_due (s : State) (c : CRingId) (hd : s.device = .running) (ht : (s.cring c).timer = some 0)
    (hu : 0 < (s.cring c).unsignalled) :
    exec (.holdoffExpiry c) s = .next ((s.stopHoldoff c).sendMessage (cringVector c)) := by
  change execHoldoffExpiry c s = _
  simp [execHoldoffExpiry, State.stopHoldoff, hd, ht, hu]

theorem exec_holdoffExpiry_idle (s : State) (c : CRingId)
    (h : s.device ≠ .running ∨ (s.cring c).timer ≠ some 0 ∨ (s.cring c).unsignalled = 0) :
    exec (.holdoffExpiry c) s = .next s := by
  change execHoldoffExpiry c s = _
  rcases h with h | h | h <;> simp [execHoldoffExpiry, h]

/-- With a place free, no message held and no drop at the head, the message joins the queue (R174, R176). -/
theorem sendMessage_joins (s : State) (v : VectorId) (hr : s.postq.length < 16)
    (hn : ∀ i : VectorId, s.held[i] = none) (hq : s.postq ≠ [] ∨ s.cfg.msiEnable = true) :
    s.sendMessage v = s.handOver (.message (s.messageFor v)) := by
  rw [s.sendMessage_room v ((placeFree_iff s).2 hr) hn]
  obtain ⟨he, hm, -⟩ | ⟨-, h⟩ := s.placeMessage_cases (s.messageFor v)
  · simp [he, hm] at hq
  · exact h

/-- With the queue full the message is held at its vector, and nothing else changes (R174). -/
theorem sendMessage_holds (s : State) (v : VectorId) (hf : 16 ≤ s.postq.length) (hv : s.held[v] = none) :
    (s.sendMessage v).held[v] = some (s.messageFor v) ∧ { s.sendMessage v with held := s.held } = s := by
  rw [s.sendMessage_held v (decide_eq_false (Nat.not_lt.2 hf)) hv]
  exact ⟨by simp, rfl⟩

/-- Settles O15: each claim on both sides of its comparison, and the message by the state of the queue. -/
theorem timeEndsWhatIsDue : Obligations.TimeEndsWhatIsDue := by
  refine ⟨fun s e rest x d hd hl he hx => ⟨fun h => ?_, fun h => ?_⟩,
    fun s r q d ready hd hw => ⟨fun h => ?_, fun h => ?_⟩, fun s c hd ht hu => ?_, fun s c h => ?_⟩
  · rw [exec_expiry s hd hl he hx, if_pos ((expired_iff d s.timeBase).2 h)]
  · rw [exec_expiry s hd hl he hx, (expired_eq_false_iff d s.timeBase).2 h]
    rfl
  · rw [exec_waitEntryTimeout s hd hw, if_pos ((expired_iff d s.timeBase).2 h), finish_not_ok s r _ .timeout _ nofun]
  · rw [exec_waitEntryTimeout s hd hw, (expired_eq_false_iff d s.timeBase).2 h]
    rfl
  · exact ⟨exec_holdoffExpiry_due s c hd ht hu, sendMessage_joins (s.stopHoldoff c) (cringVector c),
      sendMessage_holds (s.stopHoldoff c) (cringVector c)⟩
  · refine exec_holdoffExpiry_idle s c ?_
    obtain h | h | h | ⟨n, h⟩ := h
    · exact .inl h
    · exact .inr (.inl (by simp [h]))
    · exact .inr (.inr h)
    · exact .inr (.inl (by simp [h]))

end Sys2Proof.Machine
end

section
/-! PROOFS. Faults on reads (R105, R126, R163, R170, R172): every path of a fault is the one return of Table 9-1, which
each owner takes in its own way. -/

namespace Sys2Proof.Machine

-- One proof at a time: each further thread of the compile takes 1 GB of the check's fixed memory.
set_option Elab.async false

section
variable {s : State} {p : PlaceId} {x : Read}

/-! ### The paths of a fault (R170, R172) -/

theorem exec_readTimeout (hp : s.place p = some x) :
    exec (.readTimeout p) s = .next (if 50000 ≤ x.ticks then s.returnFault p x else s) := by
  change execReadTimeout p s = _
  simp [execReadTimeout, hp]

/-- Data that arrives after 50,000 ticks changes nothing (log entry 39). -/
theorem returnData_late (h : 50000 ≤ x.ticks) (n : Nat) (f : State → State) : s.returnData p x n f = s := if_pos h

/-- Data of another length than was asked for is a fault of the read (log entry 18). -/
theorem returnData_wrongLength (ht : x.ticks < 50000) {n : Nat} (hn : n ≠ x.length) (f : State → State) :
    s.returnData p x n f = s.returnFault p x := by
  rw [State.returnData, if_neg (Nat.not_le.2 ht), if_neg hn]

theorem exec_fetchReadReturn (hp : s.place p = some x) {r : RingId} (ho : x.owner = .fetch r) (data : List Slot) :
    exec (.fetchReadReturn p data) s =
      .next (s.returnData p x (64 * data.length) (fun s => s.fetchData r x.firstSlot data)) := by
  change execFetchReadReturn p data s = _
  simp [execFetchReadReturn, hp, ho]

theorem exec_adminFetchReturn (hp : s.place p = some x) (ho : x.owner = .adminFetch) (data : List Slot) :
    exec (.adminFetchReturn p data) s =
      .next (s.returnData p x (64 * data.length) (fun s => s.adminFetchData x.firstSlot data)) := by
  change execAdminFetchReturn p data s = _
  simp [execAdminFetchReturn, hp, ho]

theorem exec_bulkDataReturn (hp : s.place p = some x) {r : RingId} (ho : x.owner = .bulk r)
    (data : List CellValue) :
    exec (.bulkDataReturn p data) s =
      .next (s.returnData p x (16 * data.length) (fun s => s.bulkData r data)) := by
  change execBulkDataReturn p data s = _
  simp [execBulkDataReturn, hp, ho]

/-- Late data changes nothing, whoever owns the place's read (R170, log entries 2 and 39). -/
theorem exec_return_late (hp : s.place p = some x) (ht : 50000 ≤ x.ticks) :
    (∀ data, exec (.fetchReadReturn p data) s = .next s) ∧ (∀ data, exec (.adminFetchReturn p data) s = .next s) ∧
      ∀ data, exec (.bulkDataReturn p data) s = .next s := by
  refine ⟨fun data => ?_, fun data => ?_, fun data => ?_⟩
  · change execFetchReadReturn p data s = _
    cases ho : x.owner <;> simp [execFetchReadReturn, hp, ho, returnData_late ht]
  · change execAdminFetchReturn p data s = _
    cases ho : x.owner <;> simp [execAdminFetchReturn, hp, ho, returnData_late ht]
  · change execBulkDataReturn p data s = _
    cases ho : x.owner <;> simp [execBulkDataReturn, hp, ho, returnData_late ht]

theorem exec_fetchFault (hp : s.place p = some x) {r : RingId} (ho : x.owner = .fetch r) {c : Instr}
    (hc : c = .fetchReadFault p ∨ (c = .readTimeout p ∧ 50000 ≤ x.ticks) ∨
      (x.ticks < 50000 ∧ ∃ data, c = .fetchReadReturn p data ∧ 64 * data.length ≠ x.length)) :
    exec c s = .next (s.returnFault p x) := by
  obtain rfl | ⟨rfl, ht⟩ | ⟨ht, data, rfl, hn⟩ := hc
  · change execFetchReadFault p s = _
    simp [execFetchReadFault, hp, ho]
  · rw [exec_readTimeout hp, if_pos ht]
  · rw [exec_fetchReadReturn hp ho, returnData_wrongLength ht hn]

theorem exec_adminFetchFault (hp : s.place p = some x) (ho : x.owner = .adminFetch) {c : Instr}
    (hc : c = .adminFetchReadFault p ∨ (c = .readTimeout p ∧ 50000 ≤ x.ticks) ∨
      (x.ticks < 50000 ∧ ∃ data, c = .adminFetchReturn p data ∧ 64 * data.length ≠ x.length)) :
    exec c s = .next (s.returnFault p x) := by
  obtain rfl | ⟨rfl, ht⟩ | ⟨ht, data, rfl, hn⟩ := hc
  · change execAdminFetchReadFault p s = _
    simp [execAdminFetchReadFault, hp, ho]
  · rw [exec_readTimeout hp, if_pos ht]
  · rw [exec_adminFetchReturn hp ho, returnData_wrongLength ht hn]

theorem exec_bulkFault (hp : s.place p = some x) {r : RingId} (ho : x.owner = .bulk r) {c : Instr}
    (hc : c = .bulkDataFault p ∨ (c = .readTimeout p ∧ 50000 ≤ x.ticks) ∨
      (x.ticks < 50000 ∧ ∃ data, c = .bulkDataReturn p data ∧ 16 * data.length ≠ x.length)) :
    exec c s = .next (s.returnFault p x) := by
  obtain rfl | ⟨rfl, ht⟩ | ⟨ht, data, rfl, hn⟩ := hc
  · change execBulkDataFault p s = _
    simp [execBulkDataFault, hp, ho]
  · rw [exec_readTimeout hp, if_pos ht]
  · rw [exec_bulkDataReturn hp ho, returnData_wrongLength ht hn]

/-! ### The owners of a current read (R171, Table 9-1) -/

theorem returnFault_fetch {r : RingId} (hd : s.device = .running) (hm : x.deviceMark = true) (ho : x.owner = .fetch r)
    (hg : x.ownerMark = (s.ring r).generation) : s.returnFault p x = (s.setPlace p none).fetchFault r := by
  simp [State.returnFault, State.returnTaken, State.isCurrent, State.release, hd, hm, ho, hg]

theorem returnFault_admin (hd : s.device = .running) (hm : x.deviceMark = true) (ho : x.owner = .adminFetch) :
    s.returnFault p x = (s.setPlace p none).adminFetchFault := by
  simp [State.returnFault, State.returnTaken, State.isCurrent, State.release, hd, hm, ho]

theorem returnFault_bulk {r : RingId} (hd : s.device = .running) (hm : x.deviceMark = true) (ho : x.owner = .bulk r)
    (hg : x.ownerMark = (s.ring r).generation) : s.returnFault p x = (s.setPlace p none).bulkFault r := by
  simp [State.returnFault, State.returnTaken, State.isCurrent, State.release, hd, hm, ho, hg]

end

/-- A ring ACTIVE or DRAINING becomes FAULTED by a fetch fault, with its event pending (R105). -/
theorem fetchFault_fetching (s : State) (r : RingId) (h : (s.ring r).state = .active ∨ (s.ring r).state = .draining) :
    s.fetchFault r =
      (s.setRing r { s.ring r with state := .faulted, fetch := (s.ring r).consumer, buffer := [] }).setCtx r
        { s.ctx r with event := some (s.timeBase.setWidth 32) } := by
  rcases h with h | h <;> simp [State.fetchFault, h, State.now32]

/-- Any other ring drops it (R105). -/
theorem fetchFault_other (s : State) (r : RingId) (ha : (s.ring r).state ≠ .active)
    (hd : (s.ring r).state ≠ .draining) : s.fetchFault r = s := by
  simp [State.fetchFault, ha, hd]

/-- The BULK WRITE that waits for its data ends READ_FAULT (R126). -/
theorem bulkFault_loading (s : State) (r : RingId) {q : Request} (h : (s.ctx r).work = .loading q true) :
    s.bulkFault r = s.finish r q.header.quiet (q.header.report .readFault .none none 0 s.now32) := by
  simp [State.bulkFault, h]

theorem bulkFault_other (s : State) (r : RingId) (h : ∀ q, (s.ctx r).work ≠ .loading q true) : s.bulkFault r = s := by
  unfold State.bulkFault
  split
  · next q hq => exact absurd hq (h q)
  · rfl

/-- Only a waiting context is made ready (R41). -/
theorem Work.makeReady_of_not_waitEntry {w : Work} (h : ∀ q d b, w ≠ .waitEntry q d b) : w.makeReady = w := by
  cases w with
  | waitEntry q d b => exact absurd rfl (h q d b)
  | _ => rfl

/-- The part as an admin fetch fault halts it: waiting contexts are ready (R44, R163). -/
def State.halt (s : State) : State := { s.makeReady with device := .halted }

theorem ctx_halt_of_waitEntry (s : State) (r : RingId) {q : Request} {d : Option Time} {b : Bool}
    (h : (s.ctx r).work = .waitEntry q d b) : s.halt.ctx r = { s.ctx r with work := .waitEntry q d true } := by
  refine (s.ctx_makeReady r).trans ?_
  rw [h]
  rfl

theorem ctx_halt_of_not_waitEntry (s : State) (r : RingId) (h : ∀ q d b, (s.ctx r).work ≠ .waitEntry q d b) :
    s.halt.ctx r = s.ctx r := by
  refine (s.ctx_makeReady r).trans ?_
  rw [Work.makeReady_of_not_waitEntry h]

/-- Settles O18: each path is a returned fault, and each owner takes it. -/
theorem readFaultsReachTheirOwner : Obligations.ReadFaultsReachTheirOwner := by
  refine fun s p x hp => ⟨fun ht => ?_, exec_return_late hp, fun hd hm =>
    ⟨fun r ho hg c hc => ?_, fun ho c hc => ?_, fun r ho hg c hc => ?_⟩⟩
  · rw [exec_readTimeout hp, if_neg (Nat.not_le.2 ht)]
  · rw [exec_fetchFault hp ho hc, returnFault_fetch hd hm ho hg]
    exact ⟨fun h => congrArg _ (fetchFault_fetching _ r h), fun ha hd' => congrArg _ (fetchFault_other _ r ha hd')⟩
  · rw [exec_adminFetchFault hp ho hc, returnFault_admin hd hm ho]
    refine ⟨(s.setPlace p none).halt, rfl, rfl, fun i => ?_, fun r q d b h => ctx_halt_of_waitEntry _ r h,
      fun r h => ctx_halt_of_not_waitEntry _ r h, rfl⟩
    simp only [eq_comm (a := i)]
    exact s.place_setPlace p i none
  · rw [exec_bulkFault hp ho hc, returnFault_bulk hd hm ho hg]
    refine ⟨fun h => congrArg _ (bulkFault_other _ r h), fun q h => ?_⟩
    exact congrArg _ ((bulkFault_loading (s.setPlace p none) r h).trans (finish_not_ok _ r q.header .readFault none nofun))

end Sys2Proof.Machine
end

section
/-! PROOFS. Validation of request records by their bytes (R31, R32, R118, R183), and the end of a refused record (R33,
R108, R109). -/

namespace Sys2Proof.Machine

-- One proof at a time: each further thread of the compile takes 1 GB of the check's fixed memory.
set_option Elab.async false

/-! ### The code tables (Tables 11-6 to 11-8) -/

theorem requestKind_eq_none_iff (k : Byte) : requestKind k = none ↔ k.toNat = 0 ∨ 7 ≤ k.toNat := by
  unfold requestKind
  split <;> simp_all
  omega

/-- The number of an op (Table 11-7). -/
def Op.code : Op → Nat
  | .read => 0
  | .store => 1
  | .add => 2
  | .set => 3
  | .clear => 4
  | .flip => 5
  | .merge => 6
  | .swap => 7
  | .cswap => 8
  | .max => 9
  | .min => 10
  | .none => 15

/-- The number of a scope (Table 11-8). -/
def Scope.code : Scope → Nat
  | .lane0 => 0
  | .lane1 => 1
  | .pair => 2
  | .whole => 3

theorem decodeOp_eq_some_iff (k : Byte) (o : Op) : decodeOp k = some o ↔ k.toNat = o.code := by
  constructor
  · intro h
    unfold decodeOp at h
    split at h <;> cases h <;> assumption
  · intro h
    cases o <;> simp [decodeOp, h, Op.code]

theorem decodeScope_eq_some_iff (k : Byte) (c : Scope) : decodeScope k = some c ↔ k.toNat = c.code := by
  constructor
  · intro h
    unfold decodeScope at h
    split at h <;> cases h <;> assumption
  · intro h
    cases c <;> simp [decodeScope, h, Scope.code]

theorem exists_decodeOp_iff (k : Byte) : (∃ o, decodeOp k = some o) ↔ k.toNat ≤ 10 ∨ k.toNat = 15 := by
  unfold decodeOp
  split <;> simp_all
  omega

theorem exists_decodeScope_iff (k : Byte) : (∃ c, decodeScope k = some c) ↔ k.toNat ≤ 3 := by
  unfold decodeScope
  split <;> simp_all
  omega

theorem exists_decodeRelation_iff (k : Byte) : (∃ x, decodeRelation k = some x) ↔ k.toNat ≤ 3 := by
  unfold decodeRelation
  split <;> simp_all
  omega

theorem exists_decodeLaneSel_iff (k : Byte) :
    (∃ x, decodeLaneSel k = some x) ↔ k.toNat ≤ 1 ∨ k.toNat = 3 := by
  unfold decodeLaneSel
  split <;> simp_all
  omega

theorem decodeOp_eq_getD (k : Byte) :
    decodeOp k = ([some .read, some .store, some .add, some .set, some .clear, some .flip, some .merge, some .swap,
      some .cswap, some .max, some .min, none, none, none, none, some .none] : List (Option Op)).getD k.toNat none := by
  unfold decodeOp
  generalize k.toNat = n
  iterate 16 (rcases n with _ | n; rfl)
  rfl

theorem decodeScope_eq_getD (k : Byte) :
    decodeScope k = ([some .lane0, some .lane1, some .pair, some .whole] : List (Option Scope)).getD k.toNat none := by
  unfold decodeScope
  generalize k.toNat = n
  iterate 4 (rcases n with _ | n; rfl)
  rfl

theorem decodeRelation_eq_getD (k : Byte) :
    decodeRelation k = ([some .eq, some .ne, some .geu, some .ltu] : List (Option Relation)).getD k.toNat none := by
  unfold decodeRelation
  generalize k.toNat = n
  iterate 4 (rcases n with _ | n; rfl)
  rfl

theorem decodeLaneSel_eq_getD (k : Byte) :
    decodeLaneSel k = ([some .lane0, some .lane1, none, some .whole] : List (Option LaneSel)).getD k.toNat none := by
  unfold decodeLaneSel
  generalize k.toNat = n
  iterate 4 (rcases n with _ | n; rfl)
  rfl

/-! ### The fields that step 2 checks (Tables 1-2, 2-3, 11-1) -/

/-- Table 1-2: under PAIR only READ, ADD, MAX, MIN and NONE. -/
theorem opScopeAllowed_iff (o : Op) (c : Scope) : opScopeAllowed o c = true ↔
    (c.code = 2 → o.code = 0 ∨ o.code = 2 ∨ o.code = 9 ∨ o.code = 10 ∨ o.code = 15) := by
  cases c with
  | pair => cases o <;> decide
  | _ => cases o <;> simp [opScopeAllowed, Scope.code]

theorem decodeOpScope_eq_some_iff (x : Slot) (b : Bool) (o : Op) (c : Scope) :
    decodeOpScope x b = some (o, c) ↔ decodeOp (slotByte x 2) = some o ∧ decodeScope (slotByte x 3) = some c ∧
      (o = .none → b = true) ∧ opScopeAllowed o c = true := by
  unfold decodeOpScope
  cases decodeOp (slotByte x 2) with
  | none => simp
  | some o' =>
    cases decodeScope (slotByte x 3) with
    | none => simp
    | some c' =>
      simp only [Option.ite_none_left_eq_some, Option.some.injEq, Prod.mk.injEq]
      constructor
      · rintro ⟨hn, rfl, rfl⟩
        simp_all
      · rintro ⟨rfl, rfl, hn, ha⟩
        simp_all

/-- The op and scope bytes of a slot are marked in Table 1-2, NONE apart. -/
def OpMarked (x : Slot) : Prop :=
  (slotByte x 2).toNat ≤ 10 ∧ (slotByte x 3).toNat ≤ 3 ∧
    ((slotByte x 3).toNat = 2 → (slotByte x 2).toNat = 0 ∨ (slotByte x 2).toNat = 2 ∨ (slotByte x 2).toNat = 9 ∨
      (slotByte x 2).toNat = 10)

/-- Step 2 of validation accepts an op and a scope byte when Table 1-2 marks them; NONE for a hold alone (R4). -/
theorem exists_decodeOpScope_iff (x : Slot) (b : Bool) : (∃ z, decodeOpScope x b = some z) ↔
    OpMarked x ∨ (b = true ∧ (slotByte x 2).toNat = 15 ∧ (slotByte x 3).toNat ≤ 3) := by
  constructor
  · rintro ⟨⟨o, c⟩, hz⟩
    obtain ⟨ho, hc, hn, ha⟩ := (decodeOpScope_eq_some_iff x b o c).1 hz
    have ho' := (exists_decodeOp_iff _).1 ⟨o, ho⟩
    have hc' := (exists_decodeScope_iff _).1 ⟨c, hc⟩
    rw [decodeOp_eq_some_iff] at ho
    rw [decodeScope_eq_some_iff] at hc
    rw [opScopeAllowed_iff, ← ho, ← hc] at ha
    rcases ho' with hlow | hnone
    · exact .inl ⟨hlow, hc', fun h => by have := ha h; omega⟩
    · refine .inr ⟨hn ?_, hnone, hc'⟩
      exact Option.some.inj ((decodeOp_eq_some_iff _ o).2 ho ▸ (decodeOp_eq_some_iff _ .none).2 hnone)
  · intro h
    have hop : (slotByte x 2).toNat ≤ 10 ∨ (slotByte x 2).toNat = 15 := h.imp (·.1) (·.2.1)
    have hsc : (slotByte x 3).toNat ≤ 3 := h.elim (·.2.1) (·.2.2)
    obtain ⟨o, ho⟩ := (exists_decodeOp_iff _).2 hop
    obtain ⟨c, hc⟩ := (exists_decodeScope_iff _).2 hsc
    refine ⟨(o, c), (decodeOpScope_eq_some_iff x b o c).2 ⟨ho, hc, ?_, ?_⟩⟩
    · rintro rfl
      rw [decodeOp_eq_some_iff] at ho
      rcases h with h | h
      · exact absurd (ho ▸ h.1) (by decide)
      · exact h.1
    · rw [decodeOp_eq_some_iff] at ho
      rw [decodeScope_eq_some_iff] at hc
      rw [opScopeAllowed_iff, ← ho, ← hc]
      intro h2
      rcases h with h | h
      · have := h.2.2 h2
        omega
      · exact .inr (.inr (.inr (.inr h.2.1)))

theorem exists_decodeConditionCodes_iff (y : Slot) : (∃ z, decodeConditionCodes y = some z) ↔
    slotByte y 0 = 0x3C ∧ (slotByte y 1).toNat ≤ 3 ∧ ((slotByte y 2).toNat ≤ 1 ∨ (slotByte y 2).toNat = 3) := by
  rw [← exists_decodeRelation_iff, ← exists_decodeLaneSel_iff]
  unfold decodeConditionCodes continuationMarker
  split
  · next hmark =>
    cases decodeRelation (slotByte y 1) <;> cases decodeLaneSel (slotByte y 2) <;> simp [hmark]
  · next hmark => exact iff_of_false (by simp) fun h => hmark h.1

theorem decodeConditionCodes_some {y : Slot} {rel : Relation} {sel : LaneSel}
    (h : decodeConditionCodes y = some (rel, sel)) :
    decodeRelation (slotByte y 1) = some rel ∧ decodeLaneSel (slotByte y 2) = some sel := by
  unfold decodeConditionCodes at h
  repeat' split at h
  all_goals cases h
  exact ⟨by assumption, by assumption⟩

/-! ### The cells of a window (R31, R32) -/

/-- Cell `c` lies in the ring's window and in the store (R31). -/
def RingConfig.Inside (g : RingConfig) (c : Nat) : Prop :=
  g.windowBase ≤ c ∧ c < g.windowBase + g.windowCount ∧ c < 4096

theorem windowCell_of_inside {g : RingConfig} {f : BitVec 16} (h : g.Inside f.toNat) :
    ∃ t, g.windowCell f = some t ∧ t.val = f.toNat := by
  obtain ⟨h1, h2, h3⟩ := h
  exact ⟨⟨f.toNat, h3⟩, by simp [RingConfig.windowCell, RingConfig.inWindow, h1, h2, h3], rfl⟩

theorem windowCell_of_not_inside {g : RingConfig} {f : BitVec 16} (h : ¬ g.Inside f.toNat) :
    g.windowCell f = none := by
  unfold RingConfig.windowCell
  split
  · next h3 =>
    refine if_neg fun hw => h ?_
    simp only [RingConfig.inWindow, Bool.and_eq_true, decide_eq_true_eq] at hw
    exact ⟨hw.1, hw.2, h3⟩
  · rfl

/-- A run lies in the window when its first and its last cell do (R32). -/
theorem runInWindow_iff (g : RingConfig) (f n : Nat) (hn : 1 ≤ n) :
    g.runInWindow f n = true ↔ g.Inside f ∧ g.Inside (f + n - 1) := by
  simp only [RingConfig.runInWindow, RingConfig.Inside, Bool.and_eq_true, decide_eq_true_eq]
  omega

/-! ### The answer of validation, kind by kind -/

section
variable (g : RingConfig) (x y : Slot)

theorem validateRequest_unknown (h : (slotByte x 0).toNat = 0 ∨ 7 ≤ (slotByte x 0).toNat) (z : Option Slot) :
    validateRequest g x z = .error .badRequest := by
  simp [validateRequest, (requestKind_eq_none_iff (slotKind x)).2 h]

theorem validateUpdate_unmarked (h : ¬ OpMarked x) : validateUpdate g x = .error .badRequest := by
  have hnone : decodeOpScope x false = none := by
    rw [Option.eq_none_iff_forall_ne_some]
    exact fun z hz => h (by simpa using (exists_decodeOpScope_iff x false).1 ⟨z, hz⟩)
  simp [validateUpdate, hnone]

theorem validateUpdate_outside (hm : OpMarked x) (h : ¬ g.Inside (slotHalf x 6).toNat) :
    validateUpdate g x = .error .denied := by
  obtain ⟨⟨o, c⟩, hz⟩ := (exists_decodeOpScope_iff x false).2 (.inl hm)
  simp [validateUpdate, hz, windowCell_of_not_inside h]

theorem validateUpdate_ok (hm : OpMarked x) (h : g.Inside (slotHalf x 6).toNat) :
    ∃ act, validateUpdate g x = .ok (.update act) ∧ decodeOp (slotByte x 2) = some act.op ∧
      decodeScope (slotByte x 3) = some act.scope ∧ act.target.val = (slotHalf x 6).toNat ∧ act.a = slotOct x 32 ∧
      act.b = slotOct x 48 := by
  obtain ⟨⟨o, c⟩, hz⟩ := (exists_decodeOpScope_iff x false).2 (.inl hm)
  obtain ⟨ho, hc, -⟩ := (decodeOpScope_eq_some_iff x false o c).1 hz
  obtain ⟨t, ht, hv⟩ := windowCell_of_inside h
  exact ⟨slotAction x o c t, by simp [validateUpdate, hz, ht], ho, hc, hv, rfl, rfl⟩

/-- The fields of a hold's two slots that step 2 checks are those of Tables 1-2 and 2-3. -/
def HoldMarked : Prop :=
  (OpMarked x ∨ ((slotByte x 2).toNat = 15 ∧ (slotByte x 3).toNat ≤ 3)) ∧ slotByte y 0 = 0x3C ∧
    (slotByte y 1).toNat ≤ 3 ∧ ((slotByte y 2).toNat ≤ 1 ∨ (slotByte y 2).toNat = 3)

theorem holdMarked_iff : HoldMarked x y ↔
    (∃ z, decodeOpScope x true = some z) ∧ ∃ z, decodeConditionCodes y = some z := by
  rw [exists_decodeOpScope_iff, exists_decodeConditionCodes_iff, HoldMarked]
  simp only [true_and]

theorem validateHold_unmarked (h : ¬ HoldMarked x y) : validateHold g x y = .error .badRequest := by
  rw [holdMarked_iff] at h
  unfold validateHold
  split
  · next hx hy => exact absurd ⟨⟨_, hx⟩, ⟨_, hy⟩⟩ h
  · rfl

theorem validateHold_outside (hm : HoldMarked x y)
    (h : ¬ (g.Inside (slotHalf x 6).toNat ∧ g.Inside (slotHalf y 8).toNat)) :
    validateHold g x y = .error .denied := by
  obtain ⟨⟨⟨o, c⟩, hx⟩, ⟨rel, sel⟩, hy⟩ := (holdMarked_iff x y).1 hm
  rcases not_and_or.1 h with h | h
  · simp [validateHold, hx, hy, windowCell_of_not_inside h]
  · cases ht : g.windowCell (slotHalf x 6) <;> simp [validateHold, hx, hy, ht, windowCell_of_not_inside h]

theorem validateHold_ok (hm : HoldMarked x y) (ht : g.Inside (slotHalf x 6).toNat)
    (hw : g.Inside (slotHalf y 8).toNat) :
    ∃ act cond, validateHold g x y = .ok (.hold act cond (slotWord y 4)) ∧ decodeOp (slotByte x 2) = some act.op ∧
      decodeScope (slotByte x 3) = some act.scope ∧ act.target.val = (slotHalf x 6).toNat ∧ act.a = slotOct x 32 ∧
      act.b = slotOct x 48 ∧ cond.cell.val = (slotHalf y 8).toNat ∧ decodeRelation (slotByte y 1) = some cond.rel ∧
      decodeLaneSel (slotByte y 2) = some cond.sel ∧ cond.mask = slotOct y 32 ∧ cond.value = slotOct y 48 := by
  obtain ⟨⟨⟨o, c⟩, hx⟩, ⟨rel, sel⟩, hy⟩ := (holdMarked_iff x y).1 hm
  obtain ⟨ho, hc, -⟩ := (decodeOpScope_eq_some_iff x true o c).1 hx
  obtain ⟨hrel, hsel⟩ := decodeConditionCodes_some hy
  obtain ⟨t, ht, htv⟩ := windowCell_of_inside ht
  obtain ⟨w, hw, hwv⟩ := windowCell_of_inside hw
  exact ⟨slotAction x o c t, ⟨w, sel, rel, slotOct y 32, slotOct y 48⟩, by simp [validateHold, hx, hy, ht, hw],
    ho, hc, htv, rfl, rfl, hwv, hrel, hsel, rfl, rfl⟩

/-- A bulk request is checked by its count and its host address, then by its run (R118). -/
theorem validateBulk_eq (mk : Nat → Nat → HostAddr → Body) :
    validateBulk mk g x =
      if (slotHalf x 8).toNat = 0 ∨ 64 < (slotHalf x 8).toNat ∨ (slotQuad x 16).toNat % 16 ≠ 0 then
        .error .badRequest
      else if g.runInWindow (slotHalf x 6).toNat (slotHalf x 8).toNat then
        .ok (mk (slotHalf x 6).toNat (slotHalf x 8).toNat (slotQuad x 16))
      else .error .denied := by
  simp [validateBulk, or_assoc]

/-- Both bulk kinds are validated alike (R118). -/
theorem validateRequest_bulk (hk : (slotByte x 0).toNat = 4 ∨ (slotByte x 0).toNat = 5) :
    validateRequest g x none =
      validateBulk (if (slotByte x 0).toNat = 4 then .bulkRead else .bulkWrite) g x := by
  rcases hk with hk | hk <;> simp [validateRequest, requestKind, slotKind, hk]

end

/-- Settles O21: the code tables, then the answer for each kind in the order of the checks. -/
theorem validationFollowsTheTables : Obligations.ValidationFollowsTheTables := by
  refine ⟨fun k => ⟨decodeOp_eq_getD k, decodeScope_eq_getD k, decodeRelation_eq_getD k, decodeLaneSel_eq_getD k⟩,
    fun g x y => ⟨validateRequest_unknown g x, fun hk => ?_, fun hk => ?_, fun hk => ?_, fun hk => ?_, fun hk => ?_⟩⟩
  · simp [validateRequest, requestKind, slotKind, hk]
  · simp [validateRequest, requestKind, slotKind, hk]
  · have hv : validateRequest g x none = validateUpdate g x := by
      simp [validateRequest, requestKind, slotKind, hk]
    rw [hv]
    exact ⟨validateUpdate_unmarked g x, validateUpdate_outside g x, validateUpdate_ok g x⟩
  · have hv : validateRequest g x (some y) = validateHold g x y := by
      simp [validateRequest, requestKind, slotKind, hk]
    rw [hv]
    exact ⟨validateHold_unmarked g x y, validateHold_outside g x y, validateHold_ok g x y⟩
  · rw [validateRequest_bulk g x hk, validateBulk_eq]
    refine ⟨fun h => if_pos h, fun h1 h2 h3 h => ?_, fun h1 h2 h3 h4 h5 => ?_⟩
    · rw [if_neg (by omega), if_neg ((runInWindow_iff g _ _ h1).not.2 h)]
    · rw [if_neg (by omega), if_pos ((runInWindow_iff g _ _ h1).2 ⟨h4, h5⟩)]
      split <;> rfl

/-! ### Refused records (R33, R108, R109) -/

theorem validateRequest_error_ne_ok {g : RingConfig} {x : Slot} {z : Option Slot} {st : Status}
    (h : validateRequest g x z = .error st) : st ≠ .ok := by
  unfold validateRequest validateUpdate validateHold validateBulk at h
  dsimp only at h
  repeat' split at h
  all_goals cases h
  all_goals exact nofun

/-- A refused record is passed, and its context reports the status, whatever its flags (R33). -/
theorem takeRecord_refused (s : State) (r : RingId) (x : Slot) (z : Option Slot) (n : Nat) {st : Status}
    (h : validateRequest (s.ring r).config x z = .error st) :
    s.takeRecord r x z n =
      ((s.consumeSlots r n).setWork r (.reporting ⟨st, slotByte x 0, slotHalf x 4, ⟨false, false, false⟩, none, 0,
        s.timeBase.setWidth 32⟩)).joinList (s.ring r).config.cring (.ring r) := by
  have hend := finish_not_ok (s.consumeSlots r n) r (slotHeader x) st none (validateRequest_error_ne_ok h)
  simp only [State.consumeSlots, State.ring_setRing_self] at hend
  simp only [State.takeRecord, h, State.consumeSlots]
  exact hend

/-- The oldest slot of a ring that may take a record (R108). -/
theorem oldestSlot_eq (s : State) {r : RingId} {x : Slot} {rest : List (Option Slot)} (hd : s.device = .running)
    (ha : (s.ring r).state = .active) (hw : (s.ctx r).work = .empty) (he : (s.ctx r).event = none)
    (hb : (s.ring r).buffer = some x :: rest) : s.oldestSlot r = some x := by
  simp [State.oldestSlot, hd, ha, hw, he, hb]

theorem takeKind_oldest (s : State) {r : RingId} {k : Option RequestKind} {x : Slot} (h : s.oldestSlot r = some x)
    (hk : requestKind (slotKind x) = k) : s.takeKind r k = s.takeRecord r x none 1 := by
  simp [State.takeKind, h, hk]

theorem takeHold_oldest (s : State) {r : RingId} {x y : Slot} {rest : List (Option Slot)}
    (h : s.oldestSlot r = some x) (hb : (s.ring r).buffer = some x :: some y :: rest)
    (hk : requestKind (slotKind x) = some .hold) : s.takeHold r = s.takeRecord r x (some y) 2 := by
  simp [State.takeHold, State.secondSlot, h, hb, hk]

/-- Settles O22: the record is the oldest of its kind, and its refusal is reported. -/
theorem refusedRecordsAreReportedAndPassed : Obligations.RefusedRecordsAreReportedAndPassed := by
  refine fun s r x y rest st hd ha hw he => ⟨fun hb hv => ?_, fun hb hv hk => ?_⟩
  · have hold : s.oldestSlot r = some x := oldestSlot_eq s hd ha hw he hb
    have taken {k : Option RequestKind} (hk : requestKind (slotKind x) = k) :=
      (takeKind_oldest s hold hk).trans (takeRecord_refused s r x none 1 hv)
    simp only [State.consumeSlots, hb, List.drop_one, List.tail_cons] at taken
    exact ⟨fun hk => congrArg _ (taken ((requestKind_eq_none_iff _).2 hk)),
      fun hk => congrArg _ (taken (by simp [requestKind, slotKind, hk])),
      fun hk => congrArg _ (taken (by simp [requestKind, slotKind, hk])),
      fun hk => congrArg _ (taken (by simp [requestKind, slotKind, hk]))⟩
  · have hold : s.oldestSlot r = some x := oldestSlot_eq s hd ha hw he hb
    have hkind : requestKind (slotKind x) = some .hold := by simp [requestKind, slotKind, hk]
    have taken := (takeHold_oldest s hold hb hkind).trans (takeRecord_refused s r x (some y) 2 hv)
    simp only [State.consumeSlots, hb, List.drop_succ_cons, List.drop_zero] at taken
    exact congrArg _ taken

end Sys2Proof.Machine
end

section
/-! PROOFS. Actions at the Cell Port (R12 to R15, R22, R23, R36): an UPDATE, and a hold that is true at its arrival or
retry, performs its action, ends its request and reports the change. -/

namespace Sys2Proof.Machine

-- One proof at a time: each further thread of the compile takes 1 GB of the check's fixed memory.
set_option Elab.async false

/-! ### Actions (R12 to R14) -/

/-- What an action leaves in its target cell; NONE leaves it as it was (R5 to R12). -/
def Action.apply (act : Action) (old : CellValue) : CellValue :=
  if act.op = .none then old else scopedValue act.op act.scope old act.a act.b

/-- The flags of an action on a cell that held `old`; NONE sets none (R13). -/
def Action.flags (act : Action) (old : CellValue) : Flags :=
  if act.op = .none then ⟨false, false, false⟩ else
    ⟨act.apply old ≠ old, scopedWrap act.op act.scope old act.a, scopedMatched act.op act.scope old act.b⟩

/-- The whole store after an action, byte by byte (R15). -/
theorem readByte_performAction_eq (m : List Host.Cell) (act : Action) (hm : Memory.wf m = true) (a : Nat) :
    readByte (performAction m act).mem a =
      if 16 * act.target.val ≤ a ∧ a < 16 * act.target.val + 16 then
        cellByte (act.apply (readCell m act.target)) (a - 16 * act.target.val)
      else readByte m a := by
  by_cases hop : act.op = .none
  · rw [performAction_none m act hop, Action.apply, if_pos hop]
    split
    · next ha => rw [cellByte_readCell _ _ _ (by omega), Nat.add_sub_cancel' ha.1]
    · rfl
  · rw [performAction_eq m act hop hm, readByte_writeCell _ _ _ hm, Action.apply, if_neg hop]

theorem flags_performAction (m : List Host.Cell) (act : Action) :
    (performAction m act).flags = act.flags (readCell m act.target) := by
  by_cases hop : act.op = .none <;> simp [performAction, Action.flags, Action.apply, hop, opFlags, Flags.none]

/-- CHANGED is set when the target changes, and never by NONE (R12, R13). -/
theorem changed_flags_iff (act : Action) (old : CellValue) :
    (act.flags old).changed = true ↔ act.apply old ≠ old := by
  by_cases hop : act.op = .none <;> simp [Action.flags, Action.apply, hop]

/-- With RETURN an action returns its target as it was, or the watched cell for NONE (R14). -/
theorem actionValue_performAction (m : List Host.Cell) (act : Action) (w : CellValue) (ret : Bool) :
    actionValue act (performAction m act).old w ret =
      if ret then some (if act.op = .none then w else readCell m act.target) else none := by
  by_cases hop : act.op = .none <;> simp [actionValue, performAction, hop]

/-! ### The change report (R22, R61, R63) -/

theorem changeReported_reportIf (s : State) (b : Bool) (c : CellId) :
    s.ChangeReported (s.reportIf b c) c (b = true) := by
  refine ⟨fun h => ?_, fun hb hw hq hs => ?_, fun hb hs hq e es hw => ?_⟩
  · have hsame : s.reportIf b c = s := by
      cases b with
      | false => rfl
      | true =>
        rcases h with h | h | h
        · exact absurd rfl h
        · exact s.reportChange_unwatched c h
        · exact s.reportChange_queued c h
    rw [hsame]
    exact ⟨rfl, rfl⟩
  · subst hb
    rw [show s.reportIf true c = s.reportChange c from rfl, s.reportChange_scanning c hw hq hs]
    exact ⟨rfl, rfl⟩
  · subst hb
    rw [show s.reportIf true c = s.reportChange c from rfl, s.reportChange_idle c e es hw hq hs]
    exact ⟨rfl, hq⟩

/-! ### A hold that is true (R36) -/

/-- The outcome of an action that was performed at an arrival or a retry (R14, R23, R36). -/
def State.actionReport (s : State) (h : Header) (act : Action) (w : CellValue) : Report :=
  ⟨.ok, h.kind, h.tag, act.flags (readCell s.mem act.target),
    if h.ret then some (if act.op = .none then w else readCell s.mem act.target) else none, 1, s.timeBase.setWidth 32⟩

/-- The state once an action's cell is written and its request ended, before the change report (R23, R36). -/
def State.actionEnded (s : State) (r : RingId) (h : Header) (act : Action) (w : CellValue) : State :=
  State.finish { s with mem := (performAction s.mem act).mem } r h.quiet (s.actionReport h act w)

theorem actionEnded_frame (s : State) (r : RingId) (h : Header) (act : Action) (w : CellValue) :
    ∃ x y, s.actionEnded r h act w =
      { s with mem := (performAction s.mem act).mem, contexts := x, crings := y } :=
  State.finish_frame _ r h.quiet _

/-- With QUIET the context becomes EMPTY and nothing is reported (R143). -/
theorem actionEnded_quiet (s : State) (r : RingId) (h : Header) (act : Action) (w : CellValue) (hq : h.quiet = true) :
    s.actionEnded r h act w = State.setWork { s with mem := (performAction s.mem act).mem } r .empty := by
  rw [State.actionEnded, hq]
  exact State.finish_quiet _ r _ rfl

/-- Without QUIET the context reports the outcome (R23, R36). -/
theorem actionEnded_reported (s : State) (r : RingId) (h : Header) (act : Action) (w : CellValue)
    (hq : h.quiet = false) :
    s.actionEnded r h act w =
      (State.setWork { s with mem := (performAction s.mem act).mem } r (.reporting (s.actionReport h act w))).joinList
        (s.ring r).config.cring (.ring r) :=
  State.finish_reported _ r h.quiet _ (.inl hq)

/-- Ending a request touches the context of its own ring alone. -/
theorem ctx_finish_ne (s : State) {r i : RingId} (quiet : Bool) (o : Report) (hi : i ≠ r) :
    (s.finish r quiet o).ctx i = s.ctx i := by
  unfold State.finish
  split
  · exact s.ctx_setWork_ne _ hi.symm
  · exact s.ctx_setWork_ne _ hi.symm

theorem fireAtArrival_eq (s : State) (r : RingId) (h : Header) (act : Action) (w : CellValue) :
    s.fireAtArrival r h act w =
      (s.actionEnded r h act w).reportIf (act.flags (readCell s.mem act.target)).changed act.target := by
  rw [← flags_performAction, State.actionEnded, State.actionReport, ← actionValue_performAction,
    ← flags_performAction]
  rfl

/-- The watched cell does not matter to an op other than NONE. -/
theorem runUpdate_eq_fireAtArrival (s : State) (r : RingId) (h : Header) (act : Action) (w : CellValue)
    (hop : act.op ≠ .none) : s.runUpdate r h act = s.fireAtArrival r h act w := by
  simp [State.runUpdate, State.fireAtArrival, actionValue, hop]

section
variable {s g : State} {r : RingId} {h : Header} {act : Action} {cond : Condition} {timeout : BitVec 32}
  {d : Option Time}

theorem exec_updateOperation (hg : s.grant (.ring r) = some g) (hw : (s.ctx r).work = .running ⟨h, .update act⟩) :
    exec (.updateOperation r) s = .next (g.runUpdate r h act) := by
  change execUpdateOperation r s = _
  simp [execUpdateOperation, hw, hg]

theorem exec_holdArrival (hg : s.grant (.ring r) = some g)
    (hw : (s.ctx r).work = .running ⟨h, .hold act cond timeout⟩) :
    exec (.holdArrival r) s = .next (g.holdArrival r ⟨h, .hold act cond timeout⟩ act cond timeout) := by
  change execHoldArrival r s = _
  simp [execHoldArrival, hw, hg]

theorem exec_holdRetry (hg : s.grant (.ring r) = some g)
    (hw : (s.ctx r).work = .waitEntry ⟨h, .hold act cond timeout⟩ d true) :
    exec (.holdRetry r) s = .next (g.holdRetry r ⟨h, .hold act cond timeout⟩ act cond d) := by
  change execHoldRetry r s = _
  simp [execHoldRetry, hw, hg]

/-- The operations of R36 all perform the action. -/
theorem exec_performs {c : Instr} {w : CellValue} (hg : s.grant (.ring r) = some g)
    (hc : (c = .updateOperation r ∧ (s.ctx r).work = .running ⟨h, .update act⟩ ∧ act.op ≠ .none) ∨
      ∃ cond timeout, w = readCell s.mem cond.cell ∧ cond.holds w = true ∧
        ((c = .holdArrival r ∧ (s.ctx r).work = .running ⟨h, .hold act cond timeout⟩) ∨
          ∃ d, c = .holdRetry r ∧ (s.ctx r).work = .waitEntry ⟨h, .hold act cond timeout⟩ d true)) :
    exec c s = .next (g.fireAtArrival r h act w) := by
  have hmem : g.mem = s.mem := (keeps_grant hg).mem_eq
  obtain ⟨rfl, hw, hop⟩ | ⟨cond, timeout, rfl, ht, ⟨rfl, hw⟩ | ⟨d, rfl, hw⟩⟩ := hc
  · rw [exec_updateOperation hg hw, runUpdate_eq_fireAtArrival g r h act w hop]
  · rw [exec_holdArrival hg hw, State.holdArrival, hmem, if_pos ht]
  · rw [exec_holdRetry hg hw, State.holdRetry, hmem, if_pos ht]

end

/-- Between `s` and `t` ring `r` has performed an action and ended its request (R36). -/
structure ActionPerformed (s t : State) (r : RingId) (h : Header) (act : Action) (w : CellValue) : Prop where
  mem : ∀ a, readByte t.mem a = if 16 * act.target.val ≤ a ∧ a < 16 * act.target.val + 16 then
    cellByte (act.apply (readCell s.mem act.target)) (a - 16 * act.target.val) else readByte s.mem a
  quiet : h.quiet = true → t.ctx r = { s.ctx r with work := .empty } ∧ t.crings = s.crings
  reported : h.quiet = false → t.ctx r = { s.ctx r with work := .reporting (s.actionReport h act w) } ∧
    t.crings = (s.joinList (s.ring r).config.cring (.ring r)).crings
  others : ∀ i, i ≠ r → t.ctx i = s.ctx i
  change : s.ChangeReported t act.target (act.apply (readCell s.mem act.target) ≠ readCell s.mem act.target)
  frame : { t with mem := s.mem, contexts := s.contexts, crings := s.crings, scan := s.scan,
                   wakeQueue := s.wakeQueue } = s

theorem fireAtArrival_performs (s : State) (r : RingId) (h : Header) (act : Action) (w : CellValue)
    (hm : Memory.wf s.mem = true) : ActionPerformed s (s.fireAtArrival r h act w) r h act w := by
  rw [fireAtArrival_eq]
  have hrep := changeReported_reportIf (s.actionEnded r h act w) (act.flags (readCell s.mem act.target)).changed
    act.target
  obtain ⟨x, q, ht⟩ := (s.actionEnded r h act w).reportIf_frame (act.flags (readCell s.mem act.target)).changed
    act.target
  obtain ⟨cs, cr, hu⟩ := actionEnded_frame s r h act w
  rw [changed_flags_iff] at hrep
  rw [ht] at hrep ⊢
  refine ⟨fun a => ?_, fun hq => ?_, fun hq => ?_, fun i hi => ?_, ?_, ?_⟩
  · rw [hu]
    exact readByte_performAction_eq s.mem act hm a
  · rw [actionEnded_quiet s r h act w hq]
    exact ⟨s.ctx_setWork_self r .empty, rfl⟩
  · rw [actionEnded_reported s r h act w hq]
    exact ⟨s.ctx_setWork_self r _, rfl⟩
  · exact ctx_finish_ne _ _ _ hi
  · rw [hu] at hrep ⊢
    exact hrep
  · rw [hu]

/-- Settles O28: the operation performs the action, ends its request and reports the change. -/
theorem actionsArePerformedAtArrival : Obligations.ActionsArePerformedAtArrival := by
  intro s g r h act c w hm hg hc old new flags value ring
  have hexec := exec_performs hg hc
  have hperformed := fireAtArrival_performs g r h act w
  obtain ⟨p, k, o, rfl⟩ := s.grant_frame hg
  obtain ⟨hmem, hquiet, hreported, hothers, hchange, hframe⟩ := hperformed hm
  refine ⟨_, hexec, hmem, hquiet, fun hq => ?_, hothers, hchange, hframe⟩
  obtain ⟨hctx, hcrings⟩ := hreported hq
  have hcring (i : CRingId) := (congrArg (·[i]) hcrings).trans (s.cring_joinList ring i (.ring r))
  exact ⟨hctx, (hcring ring).trans (if_pos rfl), fun i hi => (hcring i).trans (if_neg hi.symm)⟩

end Sys2Proof.Machine
end

section
/-! PROOFS. A hold that is false at its arrival or retry (R37, R38, R40, R42): it ends, waits for an entry, or is armed
in the lowest FREE one (R45, R47, R48, R78). -/

namespace Sys2Proof.Machine

-- One proof at a time: each further thread of the compile takes 1 GB of the check's fixed memory.
set_option Elab.async false

/-! ### The Hold Table's lowest FREE entry (R48) -/

theorem firstFree_eq_none (s : State) (h : ∀ e, s.entry e ≠ none) : s.firstFree = none := by
  simp [State.firstFree, List.find?_eq_none, h]

theorem firstFree_eq_some (s : State) (e : EntryId) (he : s.entry e = none) (h : ∀ i, i < e → s.entry i ≠ none) :
    s.firstFree = some e := by
  rw [State.firstFree, List.find?_eq_some_iff_getElem]
  refine ⟨by simp [he], e.val, by simp, by simp, fun j hj => ?_⟩
  simpa [Option.isSome_iff_ne_none] using h ⟨j, by omega⟩ hj

/-! ### The branches of a false hold (R37, R38, R42) -/

section
variable (s : State) {r : RingId} (q : Request) (act : Action) {cond : Condition}

theorem holdArrival_notMet (h : cond.holds (readCell s.mem cond.cell) = false) :
    s.holdArrival r q act cond 0 = s.finish r q.header.quiet
      (q.header.report .notMet .none (if q.header.ret then some (readCell s.mem cond.cell) else none) 0 s.now32) := by
  simp [State.holdArrival, h]

theorem holdArrival_waits {timeout : BitVec 32} (h : cond.holds (readCell s.mem cond.cell) = false)
    (ht : timeout ≠ 0) :
    s.holdArrival r q act cond timeout = s.armOrWait r q act cond (deadlineAt s.timeBase timeout) := by
  rw [State.holdArrival, h, if_neg ht]
  rfl

/-- A deadline that is none, or that has not been reached, keeps a hold waiting (R29, R76). -/
theorem any_expired_iff (d : Option Time) (t : Time) : d.any (fun x => expired x t) = true ↔
    ∃ v, d = some v ∧ (t.toNat + 2 ^ 48 - v.toNat) % 2 ^ 48 < 2 ^ 47 := by
  simp only [Option.any_eq_true, ← expired_iff]

theorem holdRetry_timeout {d : Option Time} (h : cond.holds (readCell s.mem cond.cell) = false)
    (hd : d.any (fun x => expired x s.timeBase) = true) :
    s.holdRetry r q act cond d =
      s.finish r q.header.quiet (q.header.report .timeout .none none 0 s.now32) := by
  rw [State.holdRetry, h, if_pos hd]
  rfl

theorem holdRetry_waits {d : Option Time} (h : cond.holds (readCell s.mem cond.cell) = false)
    (hd : ¬ d.any (fun x => expired x s.timeBase) = true) :
    s.holdRetry r q act cond d = s.armOrWait r q act cond d := by
  rw [State.holdRetry, h, if_neg hd]
  rfl

theorem armOrWait_quota (d : Option Time) (h : (s.ring r).config.quota ≤ s.occ r) :
    s.armOrWait r q act cond d = s.finish r q.header.quiet (q.header.report .quota .none none 0 s.now32) := if_pos h

theorem armOrWait_waitEntry (d : Option Time) (h : s.occ r < (s.ring r).config.quota) (hf : ∀ e, s.entry e ≠ none) :
    s.armOrWait r q act cond d = s.setWork r (.waitEntry q d false) := by
  rw [State.armOrWait, if_neg (Nat.not_le.2 h), firstFree_eq_none s hf]

theorem armOrWait_arm (d : Option Time) {e : EntryId} (h : s.occ r < (s.ring r).config.quota)
    (he : s.entry e = none) (hf : ∀ i, i < e → s.entry i ≠ none) :
    s.armOrWait r q act cond d = (s.arm r q.header act cond d e).setWork r .empty := by
  rw [State.armOrWait, if_neg (Nat.not_le.2 h), firstFree_eq_some s e he hf]

end

section
variable {s g : State} {r : RingId}

/-- A grant leaves what a hold reads as it was (R20). -/
theorem grant_sees (hg : s.grant (.ring r) = some g) : g.mem = s.mem ∧ g.timeBase = s.timeBase ∧
    (∀ i, g.ring i = s.ring i) ∧ (∀ i, g.occ i = s.occ i) ∧ ∀ e, g.entry e = s.entry e := by
  obtain ⟨p, k, o, rfl⟩ := s.grant_frame hg
  exact ⟨rfl, rfl, fun _ => rfl, fun _ => rfl, fun _ => rfl⟩

/-- The granted ring's request ends with another status than OK. -/
theorem finish_granted (hg : s.grant (.ring r) = some g) (h : Header) (st : Status) (v : Option CellValue)
    (hst : st ≠ .ok) : g.finish r h.quiet (h.report st .none v 0 g.now32) =
      (g.setWork r (.reporting ⟨st, h.kind, h.tag, ⟨false, false, false⟩, v, 0, s.timeBase.setWidth 32⟩)).joinList
        (s.ring r).config.cring (.ring r) := by
  obtain ⟨-, htime, hring, -, -⟩ := grant_sees hg
  rw [finish_not_ok g r h st v hst, htime, hring]

end

/-- Settles O29: each way in which a false hold is not armed, at its arrival and at its retry. -/
theorem falseHoldsEndOrWaitForAnEntry : Obligations.FalseHoldsEndOrWaitForAnEntry := by
  intro s g r h act cond timeout hg hfalse q ends
  obtain ⟨hmem, htime, hring, hocc, hentry⟩ := grant_sees hg
  have hends := finish_granted hg h
  rw [← hmem] at hfalse
  simp only [← hring, ← hocc, ← hentry]
  refine ⟨fun hw => ?_, fun d hw => ?_⟩
  · rw [exec_holdArrival hg hw]
    refine ⟨fun ht => ?_, fun ht hq => ?_, fun ht hq hf => ?_⟩
    · rw [ht, ← hmem]
      exact congrArg _ ((holdArrival_notMet g _ act hfalse).trans (hends .notMet _ nofun))
    · rw [holdArrival_waits g _ act hfalse ht]
      exact congrArg _ ((armOrWait_quota g _ act _ hq).trans (hends .quota _ nofun))
    · rw [holdArrival_waits g _ act hfalse ht, armOrWait_waitEntry g _ act _ hq hf, htime]
      rfl
  · rw [exec_holdRetry hg hw, ← any_expired_iff, ← htime]
    refine ⟨fun hd => ?_, fun hd hq => ?_, fun hd hq hf => ?_⟩
    · exact congrArg _ ((holdRetry_timeout g _ act hfalse hd).trans (hends .timeout _ nofun))
    · rw [holdRetry_waits g _ act hfalse hd]
      exact congrArg _ ((armOrWait_quota g _ act d hq).trans (hends .quota _ nofun))
    · rw [holdRetry_waits g _ act hfalse hd, armOrWait_waitEntry g _ act d hq hf]

/-! ### Arming (R47, R78) -/

/-- An entry is inserted behind every key that is at most its own and ahead of the first larger one (R78). -/
theorem insertByKey_split (key : EntryId → Nat) (k : Nat) (e : EntryId) (l : List EntryId) :
    ∃ pre post, l = pre ++ post ∧ insertByKey key k e l = pre ++ e :: post ∧ (∀ i ∈ pre, key i ≤ k) ∧
      ∀ i ∈ post.head?, k < key i := by
  induction l with
  | nil => exact ⟨[], [], rfl, rfl, nofun, nofun⟩
  | cons x xs ih =>
    unfold insertByKey
    split
    · next hx =>
      obtain ⟨pre, post, rfl, h, hpre, hpost⟩ := ih
      refine ⟨x :: pre, post, rfl, by rw [h]; rfl, ?_, hpost⟩
      simpa using ⟨hx, hpre⟩
    · next hx => exact ⟨[], x :: xs, rfl, rfl, nofun, by simpa using Nat.not_le.1 hx⟩

/-- Between `s` and `t` the request of ring `r` was armed into entry `e` with deadline `d` (R47). -/
structure Armed (s t : State) (r : RingId) (h : Header) (act : Action) (cond : Condition) (d : Option Time)
    (e : EntryId) : Prop where
  entry : t.entry e = some (s.newEntry r h act cond d)
  entries : ∀ i, i ≠ e → t.entry i = s.entry i
  watch : t.watchList cond.cell = s.watchList cond.cell ++ [e]
  watches : ∀ i, i ≠ cond.cell → t.watchList i = s.watchList i
  deadlines : t.deadlines = s.deadlinesWith d e
  occ : t.occ r = s.occ r + 1
  occs : ∀ i, i ≠ r → t.occ i = s.occ i
  ctx : t.ctx r = { s.ctx r with work := .empty }
  ctxs : ∀ i, i ≠ r → t.ctx i = s.ctx i
  frame : { t with table := s.table, watch := s.watch, deadlines := s.deadlines, occupancy := s.occupancy,
                   contexts := s.contexts } = s

theorem arm_armed (s : State) (r : RingId) (h : Header) (act : Action) (cond : Condition) (d : Option Time)
    (e : EntryId) (hs : sparseWf [] s.watch = true) :
    Armed s ((s.arm r h act cond d e).setWork r .empty) r h act cond d e := by
  refine ⟨?_, fun i hi => ?_, ?_, fun i hi => ?_, rfl, ?_, fun i hi => ?_, ?_, fun i hi => ?_, ?_⟩
  · simp [State.arm]
  · simp only [State.arm, State.setWork_entry, State.setOcc_entry, State.setWatch_entry]
    exact State.entry_setEntry_ne _ _ hi.symm
  · simp only [State.arm, State.setWork_watchList, State.setOcc_watchList]
    exact watchList_setWatch_self _ _ _ hs
  · simp only [State.arm, State.setWork_watchList, State.setOcc_watchList]
    exact watchList_setWatch_ne _ _ hi.symm
  · simp [State.arm]
  · simp only [State.arm, State.setWork_occ]
    exact State.occ_setOcc_ne _ _ hi.symm
  · rw [State.ctx_setWork_self]
    rfl
  · rw [State.ctx_setWork_ne _ _ hi.symm]
    rfl
  · obtain ⟨l, t, w, o, ha⟩ := s.arm_frame r h act cond d e
    rw [ha]
    rfl

/-- Settles O30: the request waits with its deadline, and arming fills in the lowest FREE entry. -/
theorem falseHoldsArmTheLowestFreeEntry : Obligations.FalseHoldsArmTheLowestFreeEntry := by
  intro s g r h act cond timeout d e c hwf hg hfalse hq he hfree hc
  have hexec : exec c s = .next ((g.arm r h act cond d e).setWork r .empty) := by
    obtain ⟨hmem, htime, hring, hocc, hentry⟩ := grant_sees hg
    rw [← hmem] at hfalse
    simp only [← hring, ← hocc, ← hentry] at hq he hfree
    obtain ⟨rfl, hw, ht, rfl⟩ | ⟨rfl, hw, hd⟩ := hc
    · rw [exec_holdArrival hg hw, holdArrival_waits g _ act hfalse ht, armOrWait_arm g _ act _ hq he hfree, htime]
      rfl
    · have hd' : ¬ d.any (fun x => expired x g.timeBase) = true := by
        rw [any_expired_iff, htime]
        rintro ⟨v, hv, hlt⟩
        exact absurd hlt (Nat.not_lt.2 (hd v hv))
      rw [exec_holdRetry hg hw, holdRetry_waits g _ act hfalse hd', armOrWait_arm g _ act d hq he hfree]
  have harmed := arm_armed g r h act cond d e
  obtain ⟨p, k, o, rfl⟩ := s.grant_frame hg
  obtain ⟨hentry, hentries, hwatch, hwatches, hdl, hocc, hoccs, hctx, hctxs, hframe⟩ := harmed hwf
  refine ⟨_, hexec, hentry, hentries, hwatch, hwatches, ?_, ?_, hocc, hoccs, hctx, hctxs, hframe⟩
  · rintro rfl
    exact hdl
  · rintro v rfl
    obtain ⟨pre, post, hl, hins, hpre, hpost⟩ := insertByKey_split s.entryRemaining (s.remaining v) e s.deadlines
    exact ⟨pre, post, hl, hdl.trans hins, hpre, hpost⟩

end Sys2Proof.Machine
end

section
/-! PROOFS. The Hold Table seen through its lists: the parts of its law (R46, R56, R59, R134), what leaving and joining
the lists does to each, and the moves of which every command's effect on the table is composed. -/

namespace Sys2Proof.Machine

-- One proof at a time: each further thread of the compile takes 1 GB of the check's fixed memory.
set_option Elab.async false

/-! ### Views of the table and of the lists -/

theorem armedWith_iff (s : State) (f : HoldEntry → Bool) (e : EntryId) :
    s.armedWith f e = true ↔ ∃ x, s.entry e = some x ∧ x.isArmed = true ∧ f x = true := by
  cases h : s.entry e <;> simp [State.armedWith, h]

/-- An entry leaves the watch list of its cell alone (R49, R58). -/
theorem watchList_dropEntry (s : State) (e : EntryId) (c d : CellId) (hs : sparseWf [] s.watch = true) :
    (s.dropEntry e c).watchList d = if d = c then (s.watchList c).erase e else s.watchList d := by
  split
  · next h => subst h; exact watchList_setWatch_self s d _ hs
  · next h => exact watchList_setWatch_ne s _ (Ne.symm h)

/-- The context reports an outcome (Table 5-4). -/
def Work.isReporting : Work → Bool
  | .reporting _ => true
  | _ => false

theorem Work.code_eq_five_iff (w : Work) : w.code = 5 ↔ w.isReporting = true := by
  cases w <;> simp [Work.code, Work.isReporting]

@[simp] theorem Work.isReporting_makeReady (w : Work) : w.makeReady.isReporting = w.isReporting := by
  cases w <;> rfl

@[simp] theorem isArmed_ending (x : HoldEntry) (res : HoldResult) : { x with state := .ending res }.isArmed = false :=
  rfl

/-! ### What freeing an entry leaves alone (R55) -/

@[simp] theorem freeEntry_mem (s : State) (e : EntryId) : (s.freeEntry e).mem = s.mem := by
  obtain ⟨_, _, _, h⟩ := s.freeEntry_frame e
  rw [h]

@[simp] theorem freeEntry_watch (s : State) (e : EntryId) : (s.freeEntry e).watch = s.watch := by
  obtain ⟨_, _, _, h⟩ := s.freeEntry_frame e
  rw [h]

@[simp] theorem freeEntry_deadlines (s : State) (e : EntryId) : (s.freeEntry e).deadlines = s.deadlines := by
  obtain ⟨_, _, _, h⟩ := s.freeEntry_frame e
  rw [h]

@[simp] theorem freeEntry_wakeQueue (s : State) (e : EntryId) : (s.freeEntry e).wakeQueue = s.wakeQueue := by
  obtain ⟨_, _, _, h⟩ := s.freeEntry_frame e
  rw [h]

@[simp] theorem freeEntry_scan (s : State) (e : EntryId) : (s.freeEntry e).scan = s.scan := by
  obtain ⟨_, _, _, h⟩ := s.freeEntry_frame e
  rw [h]

@[simp] theorem freeEntry_crings (s : State) (e : EntryId) : (s.freeEntry e).crings = s.crings := by
  obtain ⟨_, _, _, h⟩ := s.freeEntry_frame e
  rw [h]

@[simp] theorem freeEntry_rings (s : State) (e : EntryId) : (s.freeEntry e).rings = s.rings := by
  obtain ⟨_, _, _, h⟩ := s.freeEntry_frame e
  rw [h]

@[simp] theorem freeEntry_adminCtx (s : State) (e : EntryId) : (s.freeEntry e).adminCtx = s.adminCtx := by
  obtain ⟨_, _, _, h⟩ := s.freeEntry_frame e
  rw [h]

@[simp] theorem freeEntry_adminArea (s : State) (e : EntryId) : (s.freeEntry e).adminArea = s.adminArea := by
  obtain ⟨_, _, _, h⟩ := s.freeEntry_frame e
  rw [h]

@[simp] theorem watchList_freeEntry (s : State) (e : EntryId) (c : CellId) :
    (s.freeEntry e).watchList c = s.watchList c := by rw [State.watchList, freeEntry_watch, State.watchList]

@[simp] theorem cring_freeEntry (s : State) (e : EntryId) (c : CRingId) : (s.freeEntry e).cring c = s.cring c := by
  simp [State.cring]

@[simp] theorem ring_freeEntry (s : State) (e : EntryId) (r : RingId) : (s.freeEntry e).ring r = s.ring r := by
  simp [State.ring]

/-- Freeing an entry ends no context's report: it makes waiting contexts ready alone (R41). -/
theorem isReporting_freeEntry (s : State) (e : EntryId) (r : RingId) :
    ((s.freeEntry e).ctx r).work.isReporting = (s.ctx r).work.isReporting := by
  cases h : s.entry e with
  | none => simp only [State.freeEntry, h]
  | some x =>
    rw [s.freeEntry_some e x h, State.ctx_makeReady]
    exact Work.isReporting_makeReady _

/-! ### The parts of the law of the Hold Table -/

/-- The watch lists and the deadline list hold the ARMED entries that they should (R46, R56, R77). -/
structure State.WatchPart (s : State) : Prop where
  form : sparseWf [] s.watch = true
  nodup : ∀ c, (s.watchList c).Nodup
  exact : ∀ c e, e ∈ s.watchList c ↔ s.armedWith (fun x => x.cond.cell = c) e = true
  deadlineNodup : s.deadlines.Nodup
  deadlineExact : ∀ e, e ∈ s.deadlines ↔ s.armedWith (fun x => x.deadline.isSome) e = true

/-- The occupancies count the entries (R59). -/
def State.CountPart (s : State) : Prop := ∀ r, s.occ r = (s.entriesOf r).length

/-- The outcome lists hold the ENDING entries and the reporting contexts (R46, R134). -/
structure State.ListPart (s : State) : Prop where
  nodup : ∀ c, (s.cring c).list.Nodup
  entry : ∀ c e, Source.entry e ∈ (s.cring c).list ↔ (s.entry e).any (fun x => !x.isArmed && x.cring = c) = true
  ring : ∀ c r, Source.ring r ∈ (s.cring c).list ↔ ((s.ctx r).work.isReporting = true ∧ (s.ring r).config.cring = c)
  noAdmin : ∀ c, Source.admin ∉ (s.cring c).list

/-- The admin completion area lists the outcome that the admin context reports (R154). -/
def State.AdminPart (s : State) : Prop :=
  s.adminArea.list = (match s.adminCtx with | .reporting _ => [.admin] | _ => [])

theorem holdLaw_iff (s : State) : s.HoldLaw ↔ s.WatchPart ∧ s.CountPart ∧ s.ListPart ∧ s.AdminPart :=
  ⟨fun h => ⟨⟨h.watchForm, h.watchNodup, h.watchExact, h.deadlineNodup, h.deadlineExact⟩, h.occupancyExact,
      ⟨h.listNodup, h.listEntry, fun c r => by rw [← Work.code_eq_five_iff]; exact h.listRing c r,
        h.listNoAdmin⟩, h.adminList⟩,
    fun ⟨w, o, l, a⟩ => ⟨w.form, w.nodup, w.exact, w.deadlineNodup, w.deadlineExact, o, l.nodup, l.entry,
      fun c r => by rw [Work.code_eq_five_iff]; exact l.ring c r, l.noAdmin, a⟩⟩

/-! Each part depends on its own fields alone. -/

theorem State.WatchPart.congr {s t : State} (h : s.WatchPart) (hw : t.watch = s.watch)
    (hd : t.deadlines = s.deadlines) (ha : ∀ f e, t.armedWith f e = s.armedWith f e) : t.WatchPart := by
  have hl (c : CellId) : t.watchList c = s.watchList c := by rw [State.watchList, hw, State.watchList]
  exact ⟨hw ▸ h.form, fun c => hl c ▸ h.nodup c, fun c e => by rw [hl, ha]; exact h.exact c e, hd ▸ h.deadlineNodup,
    fun e => by rw [hd, ha]; exact h.deadlineExact e⟩

theorem State.CountPart.congr {s t : State} (h : s.CountPart) (ho : ∀ r, t.occ r = s.occ r)
    (he : ∀ r e, (t.entry e).any (fun x => x.origin = r) = (s.entry e).any (fun x => x.origin = r)) :
    t.CountPart := by
  intro r
  rw [ho, h r, State.entriesOf, State.entriesOf]
  simp only [he]

theorem State.ListPart.congr {s t : State} (h : s.ListPart) (hl : ∀ c, (t.cring c).list = (s.cring c).list)
    (he : ∀ c e, (t.entry e).any (fun x => !x.isArmed && x.cring = c) =
      (s.entry e).any (fun x => !x.isArmed && x.cring = c))
    (hr : ∀ c r, ((t.ctx r).work.isReporting = true ∧ (t.ring r).config.cring = c) ↔
      ((s.ctx r).work.isReporting = true ∧ (s.ring r).config.cring = c)) : t.ListPart :=
  ⟨fun c => hl c ▸ h.nodup c, fun c e => by rw [hl, he]; exact h.entry c e, fun c r => by rw [hl, hr]; exact h.ring c r,
    fun c => hl c ▸ h.noAdmin c⟩

/-! ### Leaving the watch list and the deadline list -/

/-- An entry that leaves its lists and is ARMED no more leaves the other memberships as they were (R49, R58). -/
theorem State.WatchPart.drop {s : State} (h : s.WatchPart) {e : EntryId} {x : HoldEntry} (he : s.entry e = some x)
    (t : State) (hw : t.watch = (s.dropEntry e x.cond.cell).watch) (hd : t.deadlines = s.deadlines.erase e)
    (hi : ∀ i, i ≠ e → t.entry i = s.entry i) (hn : ∀ f, t.armedWith f e = false) : t.WatchPart := by
  have hl (d : CellId) : t.watchList d =
      if d = x.cond.cell then (s.watchList x.cond.cell).erase e else s.watchList d := by
    rw [← watchList_dropEntry s e x.cond.cell d h.form, State.watchList, hw, State.watchList]
  have harmed (f : HoldEntry → Bool) (i : EntryId) : t.armedWith f i = true ↔ i ≠ e ∧ s.armedWith f i = true := by
    by_cases hie : i = e
    · subst hie; simp [hn]
    · rw [armedWith_iff, armedWith_iff, hi i hie]
      simp [hie]
  refine ⟨hw ▸ watchForm_setWatch s _ _ h.form, fun c => ?_, fun c i => ?_, hd ▸ h.deadlineNodup.erase e, fun i => ?_⟩
  · rw [hl]
    split
    · exact (h.nodup _).erase e
    · exact h.nodup c
  · rw [harmed, ← h.exact, hl]
    split
    · next hc => subst hc; exact (h.nodup _).mem_erase_iff
    · next hc =>
      refine ⟨fun hm => ⟨?_, hm⟩, And.right⟩
      rintro rfl
      obtain ⟨y, hy, -, hyc⟩ := (armedWith_iff ..).1 ((h.exact c i).1 hm)
      rw [he, Option.some.injEq] at hy
      subst hy
      exact hc (by simpa [eq_comm] using hyc)
  · rw [hd, h.deadlineNodup.mem_erase_iff, harmed, h.deadlineExact]

/-! ### Joining and leaving an outcome list -/

/-- An entry that ends joins the list of its completion ring (R49, R134). -/
theorem State.ListPart.joinEntry {s : State} (h : s.ListPart) {e : EntryId} {x : HoldEntry} (he : s.entry e = some x)
    (hx : x.isArmed = true) (res : HoldResult) : (s.endWith e x res).ListPart := by
  have hnot (c : CRingId) : Source.entry e ∉ (s.cring c).list := by simp [h.entry, he, hx]
  have hmem (c : CRingId) (y : Source) : y ∈ ((s.endWith e x res).cring c).list ↔
      y ∈ (s.cring c).list ∨ (x.cring = c ∧ y = .entry e) := by
    rw [State.endWith, State.cring_joinList]
    split
    · next hc => subst hc; simp
    · next hc => simp [hc]
  refine ⟨fun c => ?_, fun c i => ?_, fun c r => ?_, fun c => ?_⟩
  · rw [State.endWith, State.cring_joinList]
    split
    · next hc =>
      subst hc
      exact List.nodup_append_comm.1 (List.nodup_cons.2 ⟨hnot _, h.nodup _⟩)
    · exact h.nodup c
  · rw [hmem, h.entry, State.endWith, State.joinList_entry, State.entry_setEntry]
    split
    · next hi => subst hi; simp [he, hx]
    · next hi => simp [Ne.symm hi]
  · rw [hmem]
    simp only [reduceCtorEq, and_false, or_false]
    exact h.ring c r
  · rw [hmem]
    simpa using h.noAdmin c

/-- A context that reports joins the list of its ring (R111, R134). -/
theorem State.ListPart.joinRing {s : State} (h : s.ListPart) {r : RingId} (o : Report)
    (hw : (s.ctx r).work.isReporting = false) :
    ((s.setWork r (.reporting o)).joinList (s.ring r).config.cring (.ring r)).ListPart := by
  have hnot (c : CRingId) : Source.ring r ∉ (s.cring c).list := by simp [h.ring, hw]
  have hmem (c : CRingId) (y : Source) :
      y ∈ (((s.setWork r (.reporting o)).joinList (s.ring r).config.cring (.ring r)).cring c).list ↔
        y ∈ (s.cring c).list ∨ ((s.ring r).config.cring = c ∧ y = .ring r) := by
    rw [State.cring_joinList]
    split
    · next hc => subst hc; simp
    · next hc => simp [hc]
  refine ⟨fun c => ?_, fun c i => ?_, fun c i => ?_, fun c => ?_⟩
  · rw [State.cring_joinList]
    split
    · next hc =>
      subst hc
      exact List.nodup_append_comm.1 (List.nodup_cons.2 ⟨hnot _, h.nodup _⟩)
    · exact h.nodup c
  · rw [hmem]
    simpa using h.entry c i
  · rw [hmem, h.ring, State.joinList_ctx, State.ctx_setWork]
    split
    · next hi => subst hi; simp [Work.isReporting]
    · next hi => simp [Ne.symm hi]
  · rw [hmem]
    simpa using h.noAdmin c

/-- The outcome list `l` without its head. -/
def State.popList (s : State) : ListId → State
  | .admin => { s with adminArea := { s.adminArea with list := s.adminArea.list.tail } }
  | .ring c => s.setCRing c { s.cring c with list := (s.cring c).list.tail }

/-- The memberships of the lists once the head of the list of ring `c` has left it. -/
theorem mem_popList {s : State} (h : s.ListPart) {c d : CRingId} {y src : Source}
    (hs : (s.cring c).list.head? = some src) :
    y ∈ ((s.popList (.ring c)).cring d).list ↔ y ∈ (s.cring d).list ∧ ¬ (c = d ∧ y = src) := by
  rw [State.popList, State.cring_setCRing]
  split
  · next hc =>
    subst hc
    obtain ⟨rest, hl⟩ := List.head?_eq_some_iff.1 hs
    have hn := h.nodup c
    rw [hl] at hn ⊢
    obtain ⟨hn, -⟩ := List.nodup_cons.1 hn
    simp only [List.tail_cons, List.mem_cons, true_and]
    constructor
    · intro hy
      exact ⟨.inr hy, fun e => hn (e ▸ hy)⟩
    · rintro ⟨hy | hy, hne⟩
      · exact absurd hy hne
      · exact hy
  · next hc => simp [hc]

theorem nodup_popList {s : State} (h : s.ListPart) (c d : CRingId) : ((s.popList (.ring c)).cring d).list.Nodup := by
  rw [State.popList, State.cring_setCRing]
  split
  · exact (h.nodup c).sublist (List.tail_sublist _)
  · exact h.nodup d

/-- The head of a list leaves it and its entry becomes FREE (R51, R52, R55). -/
theorem State.ListPart.popEntry {s : State} (h : s.ListPart) {c : CRingId} {e : EntryId}
    (hs : (s.cring c).list.head? = some (.entry e)) : ((s.popList (.ring c)).freeEntry e).ListPart := by
  obtain ⟨x, hx, hend⟩ : ∃ x, s.entry e = some x ∧ (x.isArmed = false ∧ x.cring = c) := by
    simpa [Option.any_eq_true] using (h.entry c e).1 (List.mem_of_mem_head? hs)
  refine ⟨fun d => ?_, fun d i => ?_, fun d r => ?_, fun d => ?_⟩
  · rw [cring_freeEntry]; exact nodup_popList h c d
  · rw [cring_freeEntry, mem_popList h hs, h.entry, State.entry_freeEntry]
    split
    · next hi => subst hi; simp [hx, hend]
    · next hi => simp only [Source.entry.injEq, Ne.symm hi, and_false, not_false_eq_true, and_true]; rfl
  · rw [cring_freeEntry, mem_popList h hs, h.ring, isReporting_freeEntry, ring_freeEntry]
    simp only [reduceCtorEq, and_false, not_false_eq_true, and_true]
    rfl
  · rw [cring_freeEntry, mem_popList h hs]
    simp [h.noAdmin d]

/-- The head of a list leaves it and its context becomes EMPTY (R111, R113). -/
theorem State.ListPart.popRing {s : State} (h : s.ListPart) {c : CRingId} {r : RingId}
    (hs : (s.cring c).list.head? = some (.ring r)) : ((s.popList (.ring c)).setWork r .empty).ListPart := by
  obtain ⟨-, hc⟩ := (h.ring c r).1 (List.mem_of_mem_head? hs)
  refine ⟨nodup_popList h c, fun d i => ?_, fun d i => ?_, fun d => ?_⟩
  · rw [State.setWork_cring, mem_popList h hs, h.entry]
    simp only [reduceCtorEq, and_false, not_false_eq_true, and_true]
    rfl
  · rw [State.setWork_cring, mem_popList h hs, h.ring, State.ctx_setWork]
    change _ ↔ _ ∧ (s.ring i).config.cring = d
    split
    · next hi => subst hi; subst hc; simp [Work.isReporting]
    · next hi =>
      simp only [Source.ring.injEq, Ne.symm hi, and_false, not_false_eq_true, and_true]
      rfl
  · rw [State.setWork_cring, mem_popList h hs]
    simp [h.noAdmin d]

/-! ### Counting entries (R59) -/

/-- The entries of a ring once entry `e` has become FREE or has been filled in. -/
theorem entriesOf_of_ne {s t : State} {e : EntryId} (hi : ∀ i, i ≠ e → t.entry i = s.entry i) (r : RingId)
    (hs : (s.entry e).any (fun x => x.origin = r) = true) (ht : (t.entry e).any (fun x => x.origin = r) = false) :
    (s.entriesOf r).length = (t.entriesOf r).length + 1 := by
  have herase : t.entriesOf r = (s.entriesOf r).erase e := by
    rw [State.entriesOf, State.entriesOf, ((List.nodup_finRange 256).filter _).erase_eq_filter, List.filter_filter]
    refine List.filter_congr fun i _ => ?_
    by_cases h : i = e
    · subst h; simp [ht]
    · simp [hi i h, h]
  have hmem : e ∈ s.entriesOf r := List.mem_filter.2 ⟨List.mem_finRange e, hs⟩
  rw [herase, List.length_erase_of_mem hmem]
  have := List.length_pos_of_mem hmem
  omega

theorem entriesOf_congr {s t : State} {e : EntryId} (hi : ∀ i, i ≠ e → t.entry i = s.entry i) (r : RingId)
    (he : (t.entry e).any (fun x => x.origin = r) = (s.entry e).any (fun x => x.origin = r)) :
    t.entriesOf r = s.entriesOf r := by
  refine List.filter_congr fun i _ => ?_
  by_cases h : i = e
  · subst h; exact he
  · rw [hi i h]

/-- A freed entry leaves the occupancy of its ring (R55, R59). -/
theorem State.CountPart.free {s : State} (h : s.CountPart) (e : EntryId) : (s.freeEntry e).CountPart := by
  cases he : s.entry e with
  | none => simp only [State.freeEntry, he]; exact h
  | some x =>
    have hi (i : EntryId) (hie : i ≠ e) : (s.freeEntry e).entry i = s.entry i := by
      rw [State.entry_freeEntry, if_neg (Ne.symm hie)]
    have hfree : (s.freeEntry e).entry e = none := by rw [State.entry_freeEntry, if_pos rfl]
    intro r
    have hocc : (s.freeEntry e).occ r = if x.origin = r then s.occ x.origin - 1 else s.occ r := by
      rw [s.freeEntry_some e x he]
      exact State.occ_setOcc _ _ _ _
    rw [hocc]
    split
    · next hr =>
      subst hr
      have hlen := entriesOf_of_ne hi x.origin (by simp [he]) (by simp [hfree])
      rw [h, hlen, Nat.add_sub_cancel]
    · next hr =>
      rw [entriesOf_congr hi r (by simp [he, hfree, hr])]
      exact h r

/-- An armed entry joins the occupancy of its ring (R47, R59). -/
theorem State.CountPart.arm {s : State} (h : s.CountPart) (r : RingId) (hd : Header) (act : Action) (k : Condition)
    (d : Option Time) {e : EntryId} (he : s.entry e = none) : (s.arm r hd act k d e).CountPart := by
  have hself : (s.arm r hd act k d e).entry e = some (s.newEntry r hd act k d) := by
    simp [State.arm]
  have hi (i : EntryId) (hie : i ≠ e) : (s.arm r hd act k d e).entry i = s.entry i := by
    simp only [State.arm, State.setOcc_entry, State.setWatch_entry]
    exact State.entry_setEntry_ne _ _ hie.symm
  intro i
  have hocc : (s.arm r hd act k d e).occ i = if r = i then s.occ r + 1 else s.occ i := State.occ_setOcc _ _ _ _
  rw [hocc]
  split
  · next hr =>
    subst hr
    have hlen := entriesOf_of_ne (s := s.arm r hd act k d e) (t := s) (fun i hie => (hi i hie).symm) r
      (by simp [hself, State.newEntry]) (by simp [he])
    rw [hlen, h]
  · next hr =>
    rw [entriesOf_congr hi i (by simp [he, hself, State.newEntry, hr])]
    exact h i

end Sys2Proof.Machine
end

section
/-! PROOFS. The moves: every command's effect on the Hold Table, its lists and the Wake Scan is composed of a few
operations (R36, R47, R49, R64, R111, R136), each of which keeps the memberships of R46 and the quotas of R59. -/

namespace Sys2Proof.Machine

-- One proof at a time: each further thread of the compile takes 1 GB of the check's fixed memory.
set_option Elab.async false

/-! ### The moves -/

/-- `t` holds what the laws of the Hold Table and of the Wake Scan read as `s` does. -/
structure SameHolds (s t : State) : Prop where
  mem : t.mem = s.mem := by rfl
  table : t.table = s.table := by rfl
  watch : t.watch = s.watch := by rfl
  deadlines : t.deadlines = s.deadlines := by rfl
  occupancy : t.occupancy = s.occupancy := by rfl
  wakeQueue : t.wakeQueue = s.wakeQueue := by rfl
  scan : t.scan = s.scan := by rfl
  lists : ∀ c, (t.cring c).list = (s.cring c).list := by intros; rfl
  reporting : ∀ r, (t.ctx r).work.isReporting = (s.ctx r).work.isReporting := by intros; rfl
  config : ∀ r, (t.ring r).config = (s.ring r).config := by intros; rfl
  adminCtx : t.adminCtx = s.adminCtx := by rfl
  adminList : t.adminArea.list = s.adminArea.list := by rfl

/-- What a command may do beside the ends that any command may bring: end entries TIMEOUT, and free the sources of
outcomes. -/
structure Permits where
  timeout : EntryId → Prop
  free : Prop

/-- One move. A command that frees the sources of outcomes arms no entry. -/
inductive Move (p : Permits) : State → State → Prop
  | same {s t : State} (h : SameHolds s t) : Move p s t
  | admin {s : State} (a : AdminRing) (x : AdminWork) (y : AdminArea)
      (h : s.AdminPart → State.AdminPart { s with admin := a, adminCtx := x, adminArea := y }) :
      Move p s { s with admin := a, adminCtx := x, adminArea := y }
  | configure {s : State} (r : RingId) (x : RequestRing) (hw : (s.ctx r).work.isReporting = false)
      (ho : s.occ r = 0) : Move p s (s.setRing r x)
  | report {s : State} (r : RingId) (o : Report) (hw : (s.ctx r).work.isReporting = false) :
      Move p s ((s.setWork r (.reporting o)).joinList (s.ring r).config.cring (.ring r))
  | claim {s : State} (st : Status) (e : EntryId) (h : st = .timeout → p.timeout e) : Move p s (s.claimEnd st e)
  | arm {s : State} (r : RingId) (h : Header) (act : Action) (k : Condition) (d : Option Time) (e : EntryId)
      (hfree : s.entry e = none) (hfalse : k.holds (readCell s.mem k.cell) = false)
      (hquota : s.occ r < (s.ring r).config.quota) (hp : ¬ p.free) : Move p s (s.arm r h act k d e)
  | store {s : State} (m : List Host.Cell) (b : Bool) (c : CellId) (v : CellValue)
      (h : (m, b) = storeCell s.mem c v) : Move p s (State.reportIf { s with mem := m } b c)
  | pass {s : State} (c : CellId) (e : EntryId) (x : HoldEntry) (hs : s.scan = .scanning c e)
      (he : s.entry e = some x) (hfalse : x.cond.holds (readCell s.mem c) = false) :
      Move p s (s.moveOn c (successor e (s.watchList c)))
  | fire {s : State} (c : CellId) (e : EntryId) (x : HoldEntry) (w : CellValue) (hs : s.scan = .scanning c e)
      (he : s.entry e = some x) (hx : x.isArmed = true) :
      Move p s ((s.fireEntry e x w).moveOn c (successor e (s.watchList c)))
  | deliver {s : State} (l : ListId) (x : Source) (h : (s.outcomeList l).head? = some x) (hp : p.free) :
      Move p s ((s.popList l).deliver x)
  | dropAdmin {s : State} (c : CRingId) (h : (s.cring c).list.head? = some .admin) : Move p s (s.popList (.ring c))
  | reset {s : State} (m : List Host.Cell) (hm : m = [] ∨ m = s.mem) (hp : p.free) :
      Move p s { State.reset with mem := m }

/-- A run of moves. -/
abbrev Moves (p : Permits) : State → State → Prop := Relation.ReflTransGen (Move p)

/-- A property that every move keeps is kept by a run of moves. -/
theorem Moves.keeps {p : Permits} {P : State → Prop} (hP : ∀ s t, Move p s t → P s → P t) {s t : State}
    (h : Moves p s t) (hs : P s) : P t := by
  induction h with
  | refl => exact hs
  | tail _ hm ih => exact hP _ _ hm ih

/-! ### What stays the same -/

namespace SameHolds

variable {s t : State}

theorem entry (h : SameHolds s t) (e : EntryId) : t.entry e = s.entry e := by
  rw [State.entry, h.table, State.entry]

theorem armedWith (h : SameHolds s t) (f : HoldEntry → Bool) (e : EntryId) : t.armedWith f e = s.armedWith f e := by
  rw [State.armedWith, h.entry, State.armedWith]

theorem occ (h : SameHolds s t) (r : RingId) : t.occ r = s.occ r := by rw [State.occ, h.occupancy, State.occ]

theorem watchList (h : SameHolds s t) (c : CellId) : t.watchList c = s.watchList c := by
  rw [State.watchList, h.watch, State.watchList]

theorem holdLaw (h : SameHolds s t) (hs : s.HoldLaw) : t.HoldLaw := by
  rw [holdLaw_iff] at hs ⊢
  obtain ⟨hw, hc, hl, ha⟩ := hs
  refine ⟨hw.congr h.watch h.deadlines h.armedWith, hc.congr h.occ fun r e => by rw [h.entry],
    hl.congr h.lists (fun c e => by rw [h.entry]) fun c r => by rw [h.reporting, h.config], ?_⟩
  rw [State.AdminPart, h.adminList, h.adminCtx]
  exact ha

theorem quotaLaw (h : SameHolds s t) (hs : s.QuotaLaw) : t.QuotaLaw := fun r => by
  rw [h.occ, h.config]; exact hs r

theorem wakeLaw (h : SameHolds s t) (hs : s.WakeLaw) : t.WakeLaw := by
  obtain ⟨h1, h2, h3, h4⟩ := hs
  exact ⟨h.wakeQueue ▸ h1, fun c hc => by rw [h.watchList]; exact h2 c (h.wakeQueue ▸ hc),
    fun hi => by rw [h.wakeQueue]; exact h3 (h.scan ▸ hi),
    fun c e hi => by rw [h.watchList]; exact h4 c e (h.scan ▸ hi)⟩

end SameHolds

/-! ### The store, the wake queue and the scan are not the Hold Table's -/

/-- The memberships do not speak of the cells, the wake queue and the scan. -/
theorem holdLaw_setScan {s : State} (h : s.HoldLaw) (m : List Host.Cell) (x : Scan) (q : List CellId) :
    State.HoldLaw { s with mem := m, scan := x, wakeQueue := q } :=
  ⟨h.watchForm, h.watchNodup, h.watchExact, h.deadlineNodup, h.deadlineExact, h.occupancyExact, h.listNodup,
    h.listEntry, h.listRing, h.listNoAdmin, h.adminList⟩

theorem holdLaw_moveOn {s : State} (h : s.HoldLaw) (c : CellId) (n : Option EntryId) : (s.moveOn c n).HoldLaw := by
  obtain ⟨x, q, e⟩ := s.moveOn_frame c n
  rw [e]
  exact holdLaw_setScan h s.mem x q

theorem holdLaw_reportIf {s : State} (h : s.HoldLaw) (b : Bool) (c : CellId) : (s.reportIf b c).HoldLaw := by
  obtain ⟨x, q, e⟩ := s.reportIf_frame b c
  rw [e]
  exact holdLaw_setScan h s.mem x q

/-! ### Ends of entries -/

/-- An ARMED entry becomes ENDING: it changes lists (R49). -/
theorem holdLaw_endEntry {s : State} (h : s.HoldLaw) {e : EntryId} {x : HoldEntry} (he : s.entry e = some x)
    (hx : x.isArmed = true) (res : HoldResult) : ((s.dropEntry e x.cond.cell).endWith e x res).HoldLaw := by
  rw [holdLaw_iff] at h ⊢
  obtain ⟨hw, hc, hl, ha⟩ := h
  have hi (i : EntryId) (hie : i ≠ e) :
      ((s.dropEntry e x.cond.cell).endWith e x res).entry i = s.entry i :=
    State.entry_setEntry_ne _ _ (Ne.symm hie)
  have hself : ((s.dropEntry e x.cond.cell).endWith e x res).entry e = some { x with state := .ending res } :=
    State.entry_setEntry_self _ _ _
  refine ⟨hw.drop he _ rfl rfl hi fun f => ?_, hc.congr (fun _ => rfl) fun r i => ?_, ?_, ha⟩
  · simp [State.armedWith, hself]
  · by_cases hie : i = e
    · subst hie; rw [hself, he]; rfl
    · rw [hi i hie]
  · refine (hl.joinEntry he hx res).congr (fun c => rfl) (fun c i => ?_) fun _ _ => Iff.rfl
    rfl

/-- An ARMED entry becomes FREE: it leaves its lists (R55, R64). -/
theorem holdLaw_dropFree {s : State} (h : s.HoldLaw) {e : EntryId} {x : HoldEntry} (he : s.entry e = some x)
    (hx : x.isArmed = true) : ((s.dropEntry e x.cond.cell).freeEntry e).HoldLaw := by
  rw [holdLaw_iff] at h ⊢
  obtain ⟨hw, hc, hl, ha⟩ := h
  have hentry (i : EntryId) :
      ((s.dropEntry e x.cond.cell).freeEntry e).entry i = if e = i then none else s.entry i :=
    (s.dropEntry e x.cond.cell).entry_freeEntry e i
  refine ⟨hw.drop he _ (freeEntry_watch _ e) (freeEntry_deadlines _ e) (fun i hie => ?_) fun f => ?_,
    State.CountPart.free (s := s.dropEntry e x.cond.cell) (hc.congr (fun _ => rfl) fun _ _ => rfl) e,
    hl.congr (fun c => ?_) (fun c i => ?_) fun c r => ?_, ?_⟩
  · rw [hentry, if_neg (Ne.symm hie)]
  · simp [State.armedWith, hentry]
  · rw [cring_freeEntry]; rfl
  · rw [hentry]
    split
    · next hi => subst hi; simp [he, hx]
    · rfl
  · rw [isReporting_freeEntry, ring_freeEntry]; rfl
  · rw [State.AdminPart, freeEntry_adminArea, freeEntry_adminCtx]; exact ha

theorem holdLaw_claimEnd {s : State} (h : s.HoldLaw) (st : Status) (e : EntryId) : (s.claimEnd st e).HoldLaw := by
  rcases s.claimEnd_cases st e with hc | ⟨x, he, hx, hc⟩
  · rwa [hc]
  · have hend := holdLaw_endEntry h he hx ⟨st, .none, none, s.now32⟩
    rw [hc]
    split
    · obtain ⟨y, q, hm⟩ := (s.dropEntry e x.cond.cell).moveOn_frame x.cond.cell (successor e (s.watchList x.cond.cell))
      rw [hm]
      exact holdLaw_setScan hend s.mem y q
    · exact hend

theorem holdLaw_fireEntry {s : State} (h : s.HoldLaw) {e : EntryId} {x : HoldEntry} (he : s.entry e = some x)
    (hx : x.isArmed = true) (w : CellValue) : (s.fireEntry e x w).HoldLaw := by
  have hm := holdLaw_setScan h (performAction s.mem x.act).mem s.scan s.wakeQueue
  refine holdLaw_reportIf ?_ _ _
  split
  · exact holdLaw_dropFree hm he hx
  · exact holdLaw_endEntry hm he hx _

/-! ### Arming, reporting, freeing -/

theorem holdLaw_arm {s : State} (hs : s.HoldLaw) (r : RingId) (h : Header) (act : Action) (k : Condition)
    (d : Option Time) {e : EntryId} (he : s.entry e = none) : (s.arm r h act k d e).HoldLaw := by
  rw [holdLaw_iff] at hs ⊢
  obtain ⟨hw, hc, hl, ha⟩ := hs
  have hself : (s.arm r h act k d e).entry e = some (s.newEntry r h act k d) := by
    simp [State.arm]
  have hi (i : EntryId) (hie : i ≠ e) : (s.arm r h act k d e).entry i = s.entry i := by
    simp only [State.arm, State.setOcc_entry, State.setWatch_entry]
    exact State.entry_setEntry_ne _ _ hie.symm
  have harmed (f : HoldEntry → Bool) (i : EntryId) : (s.arm r h act k d e).armedWith f i = true ↔
      (i = e ∧ f (s.newEntry r h act k d) = true) ∨ s.armedWith f i = true := by
    by_cases hie : i = e
    · subst hie
      simp [armedWith_iff, hself, he, State.newEntry, HoldEntry.isArmed]
    · simp [armedWith_iff, hi i hie, hie]
  have hwl (c : CellId) : (s.arm r h act k d e).watchList c =
      if k.cell = c then s.watchList k.cell ++ [e] else s.watchList c := by
    split
    · next hc => subst hc; exact watchList_setWatch_self _ _ _ hw.form
    · next hc => exact watchList_setWatch_ne _ _ hc
  have hdl : ((s.arm r h act k d e).deadlines).Perm (if d.isSome then e :: s.deadlines else s.deadlines) := by
    cases d with
    | none => exact .refl _
    | some v => exact insertByKey_perm _ _ _ _
  have hnew (f : HoldEntry → Bool) : s.armedWith f e = false := by simp [State.armedWith, he]
  have hnotw (c : CellId) : e ∉ s.watchList c := by simp [hw.exact, hnew]
  have hnotd : e ∉ s.deadlines := by simp [hw.deadlineExact, hnew]
  refine ⟨⟨watchForm_setWatch _ _ _ hw.form, fun c => ?_, fun c i => ?_, ?_, fun i => ?_⟩, hc.arm r h act k d he,
    hl.congr (fun _ => rfl) (fun c i => ?_) (fun _ _ => Iff.rfl), ha⟩
  · rw [hwl]
    split
    · exact List.nodup_append_comm.1 (List.nodup_cons.2 ⟨hnotw _, hw.nodup _⟩)
    · exact hw.nodup c
  · rw [hwl, harmed, ← hw.exact]
    split
    · next hc => subst hc; simp [State.newEntry, or_comm]
    · next hc => simp [State.newEntry, hc]
  · rw [hdl.nodup_iff]
    split
    · exact List.nodup_cons.2 ⟨hnotd, hw.deadlineNodup⟩
    · exact hw.deadlineNodup
  · rw [hdl.mem_iff, harmed, ← hw.deadlineExact]
    split
    · next hd => simp [State.newEntry, hd]
    · next hd => simp [State.newEntry, hd]
  · by_cases hie : i = e
    · subst hie; simp [hself, he, State.newEntry, HoldEntry.isArmed]
    · rw [hi i hie]

theorem holdLaw_report {s : State} (h : s.HoldLaw) {r : RingId} (o : Report)
    (hw : (s.ctx r).work.isReporting = false) :
    ((s.setWork r (.reporting o)).joinList (s.ring r).config.cring (.ring r)).HoldLaw := by
  rw [holdLaw_iff] at h ⊢
  obtain ⟨hp, hc, hl, ha⟩ := h
  exact ⟨hp.congr rfl rfl fun _ _ => rfl, hc.congr (fun _ => rfl) fun _ _ => rfl, hl.joinRing o hw, ha⟩

/-- A source that heads a completion ring's list is freed: an ENDING entry or a reporting context (R136 step 6). -/
theorem holdLaw_deliver {s : State} (h : s.HoldLaw) {l : ListId} {x : Source}
    (hx : (s.outcomeList l).head? = some x) : ((s.popList l).deliver x).HoldLaw := by
  rw [holdLaw_iff] at h ⊢
  obtain ⟨hw, hc, hl, ha⟩ := h
  cases l with
  | admin =>
    have hadmin : s.adminArea.list = [.admin] := by
      have hhead : s.adminArea.list.head? = some x := hx
      rw [State.AdminPart] at ha
      split at ha
      · exact ha
      · simp [ha] at hhead
    obtain rfl : x = .admin := by
      have hhead : s.adminArea.list.head? = some x := hx
      simpa [hadmin, eq_comm] using hhead
    exact ⟨hw.congr rfl rfl fun _ _ => rfl, hc.congr (fun _ => rfl) fun _ _ => rfl,
      hl.congr (fun _ => rfl) (fun _ _ => rfl) fun _ _ => Iff.rfl, congrArg List.tail hadmin⟩
  | ring c =>
    have hhead : (s.cring c).list.head? = some x := hx
    cases x with
    | entry e =>
      obtain ⟨y, hy, hend⟩ : ∃ y, s.entry e = some y ∧ y.isArmed = false ∧ y.cring = c := by
        simpa [Option.any_eq_true] using (hl.entry c e).1 (List.mem_of_mem_head? hhead)
      refine ⟨hw.congr (freeEntry_watch _ e) (freeEntry_deadlines _ e) fun f i => ?_,
        State.CountPart.free (s := s.popList (.ring c)) (hc.congr (fun _ => rfl) fun _ _ => rfl) e,
        hl.popEntry hhead, ?_⟩
      · have hentry : ((s.popList (.ring c)).deliver (.entry e)).entry i = if e = i then none else s.entry i :=
          State.entry_freeEntry _ e i
        rw [State.armedWith, hentry]
        by_cases hi : e = i
        · subst hi; simp [State.armedWith, hy, hend]
        · rw [if_neg hi, State.armedWith]
      · change State.AdminPart ((s.popList (.ring c)).freeEntry e)
        rw [State.AdminPart, freeEntry_adminArea, freeEntry_adminCtx]
        exact ha
    | ring r =>
      exact ⟨hw.congr rfl rfl fun _ _ => rfl, hc.congr (fun _ => rfl) fun _ _ => rfl, hl.popRing hhead, ha⟩
    | admin => exact absurd (List.mem_of_mem_head? hhead) (hl.noAdmin c)

/-- A ring without entries and without an outcome is configured anew (R93). -/
theorem holdLaw_configure {s : State} (h : s.HoldLaw) {r : RingId} (x : RequestRing)
    (hw : (s.ctx r).work.isReporting = false) : (s.setRing r x).HoldLaw := by
  rw [holdLaw_iff] at h ⊢
  obtain ⟨hp, hc, hl, ha⟩ := h
  refine ⟨hp.congr rfl rfl fun _ _ => rfl, hc.congr (fun _ => rfl) fun _ _ => rfl,
    hl.congr (fun _ => rfl) (fun _ _ => rfl) fun c i => ?_, ha⟩
  rw [State.setRing_ctx, State.ring_setRing]
  split
  · next hi => subst hi; simp [hw]
  · rfl

/-! ### Every move keeps the memberships and the quotas -/

theorem Move.holdLaw {p : Permits} {s t : State} (h : Move p s t) (hs : s.HoldLaw) : t.HoldLaw := by
  cases h with
  | same h => exact h.holdLaw hs
  | admin a x y h =>
    rw [holdLaw_iff] at hs ⊢
    obtain ⟨hw, hc, hl, ha⟩ := hs
    exact ⟨hw.congr rfl rfl fun _ _ => rfl, hc.congr (fun _ => rfl) fun _ _ => rfl,
      hl.congr (fun _ => rfl) (fun _ _ => rfl) fun _ _ => Iff.rfl, h ha⟩
  | configure r x hw ho => exact holdLaw_configure hs x hw
  | report r o hw => exact holdLaw_report hs o hw
  | claim st e h => exact holdLaw_claimEnd hs st e
  | arm r h act k d e hfree hfalse hquota hp => exact holdLaw_arm hs r h act k d hfree
  | store m b c v h => exact holdLaw_reportIf (holdLaw_setScan hs m s.scan s.wakeQueue) b c
  | pass c e x hscan he hfalse => exact holdLaw_moveOn hs c _
  | fire c e x w hscan he hx => exact holdLaw_moveOn (holdLaw_fireEntry hs he hx w) c _
  | deliver l x h hp => exact holdLaw_deliver hs h
  | dropAdmin c h => exact absurd (List.mem_of_mem_head? h) (hs.listNoAdmin c)
  | reset m hm hp => exact holdLaw_setScan holdLaw_reset m State.reset.scan State.reset.wakeQueue

/-- The quotas depend on the occupancies and the configurations alone. -/
theorem quotaLaw_of_le {s t : State} (h : s.QuotaLaw) (ho : ∀ r, t.occ r ≤ s.occ r)
    (hc : ∀ r, (t.ring r).config = (s.ring r).config) : t.QuotaLaw := fun r => by
  rw [hc]; exact (ho r).trans (h r)

theorem quotaLaw_freeEntry {s : State} (h : s.QuotaLaw) (e : EntryId) : (s.freeEntry e).QuotaLaw := by
  cases he : s.entry e with
  | none => simp only [State.freeEntry, he]; exact h
  | some x =>
    rw [s.freeEntry_some e x he]
    refine quotaLaw_of_le h (fun r => ?_) fun _ => rfl
    have hocc : ((s.setEntry e none).setOcc x.origin (s.occ x.origin - 1)).makeReady.occ r = _ :=
      State.occ_setOcc _ x.origin r _
    rw [hocc]
    split
    · next hr => subst hr; exact Nat.sub_le _ _
    · exact Nat.le_refl _

theorem quotaLaw_fireEntry {s : State} (h : s.QuotaLaw) (e : EntryId) (x : HoldEntry) (w : CellValue) :
    (s.fireEntry e x w).QuotaLaw := by
  have hdrop : State.QuotaLaw (State.dropEntry { s with mem := (performAction s.mem x.act).mem } e x.cond.cell) := h
  unfold State.fireEntry
  dsimp only
  obtain ⟨y, q, hr⟩ := State.reportIf_frame _ (performAction s.mem x.act).flags.changed x.act.target
  rw [hr]
  split
  · exact quotaLaw_freeEntry hdrop e
  · exact hdrop

theorem quotaLaw_deliver {s : State} (h : s.QuotaLaw) (l : ListId) (x : Source) :
    ((s.popList l).deliver x).QuotaLaw := by
  have hpop : (s.popList l).QuotaLaw := by cases l <;> exact h
  cases x with
  | entry e => exact quotaLaw_freeEntry hpop e
  | ring r => exact hpop
  | admin => exact hpop

theorem Move.quotaLaw {p : Permits} {s t : State} (h : Move p s t) (hs : s.QuotaLaw) : t.QuotaLaw := by
  cases h with
  | same h => exact h.quotaLaw hs
  | admin a x y h => exact hs
  | configure r x hw ho =>
    intro i
    rw [State.setRing_occ, State.ring_setRing]
    split
    · next hi => subst hi; rw [ho]; exact Nat.zero_le _
    · exact hs i
  | report r o hw => exact hs
  | claim st e h =>
    obtain ⟨_, _, _, _, _, _, hf⟩ := s.claimEnd_frame st e
    rw [hf]
    exact hs
  | arm r h act k d e hfree hfalse hquota hp =>
    intro i
    have hocc : (s.arm r h act k d e).occ i = if r = i then s.occ r + 1 else s.occ i := State.occ_setOcc _ _ _ _
    rw [hocc]
    split
    · next hi => subst hi; exact hquota
    · exact hs i
  | store m b c v h =>
    obtain ⟨_, _, hf⟩ := State.reportIf_frame { s with mem := m } b c
    rw [hf]
    exact hs
  | pass c e x hscan he hfalse =>
    obtain ⟨_, _, hf⟩ := s.moveOn_frame c (successor e (s.watchList c))
    rw [hf]
    exact hs
  | fire c e x w hscan he hx =>
    obtain ⟨_, _, hf⟩ := (s.fireEntry e x w).moveOn_frame c (successor e (s.watchList c))
    rw [hf]
    exact quotaLaw_fireEntry hs e x w
  | deliver l x h hp => exact quotaLaw_deliver hs l x
  | dropAdmin c h => exact hs
  | reset m hm hp => exact quotaLaw_reset

end Sys2Proof.Machine
end

section
/-! PROOFS. Every command is a run of moves of the Hold Table: the shared operations first, then the commands. The
memberships of R46 and the quotas of R59, which each move keeps, follow for every step. -/

namespace Sys2Proof.Machine

-- One proof at a time: each further thread of the compile takes 1 GB of the check's fixed memory.
set_option Elab.async false

section
variable {p : Permits} {s t u : State}

/-! ### Operations that leave the Hold Table and its lists alone -/

theorem moves_same (h : SameHolds s t) : Moves p s t := .single (.same h)

theorem Moves.ite {c : Prop} [Decidable c] (ht : Moves p s t) (hu : Moves p s u) :
    Moves p s (if c then t else u) := by
  split
  · exact ht
  · exact hu

/-- Operations that are runs of moves one by one are one together. -/
theorem moves_foldl {α : Type} (f : State → α → State) (h : ∀ s x, Moves p s (f s x)) (xs : List α) (s : State) :
    Moves p s (xs.foldl f s) := by
  induction xs generalizing s with
  | nil => exact .refl
  | cons x xs ih => exact (h s x).trans (ih _)

/-- What each operation leaves alone they leave alone together. -/
theorem foldl_view {α β : Type} (g : State → β) (f : State → α → State) (h : ∀ s x, g (f s x) = g s) (xs : List α)
    (s : State) : g (xs.foldl f s) = g s := by
  induction xs generalizing s with
  | nil => rfl
  | cons x xs ih => exact (ih _).trans (h s x)

theorem sameHolds_sendMessage (s : State) (v : VectorId) : SameHolds s (s.sendMessage v) := by
  obtain ⟨q, h, y, l, e, -⟩ := s.sendMessage_frame v
  rw [e]
  exact {}

theorem sameHolds_releaseVector (s : State) (v : VectorId) : SameHolds s (s.releaseVector v) := by
  obtain ⟨q, h, y, l, e, -⟩ := s.releaseVector_frame v
  rw [e]
  exact {}

theorem sameHolds_dropMessages (s : State) : SameHolds s s.dropMessages := by
  obtain ⟨n, y, l, e, -⟩ := s.dropMessages_cases
  rw [e]
  exact {}

theorem sameHolds_setFault (s : State) (b : FaultBit) : SameHolds s (s.setFault b) := by
  obtain ⟨f, q, h, y, l, e, -⟩ := s.setFault_frame b
  rw [e]
  exact {}

theorem moves_setFault (s : State) (b : FaultBit) : Moves p s (s.setFault b) := moves_same (sameHolds_setFault s b)

theorem sameHolds_chargeGrant (s : State) (q : Requester) : SameHolds s (s.chargeGrant q) := by
  obtain ⟨n, k, e⟩ := s.chargeGrant_frame q
  rw [e]
  exact {}

theorem sameHolds_grant {q : Requester} (h : s.grant q = some t) : SameHolds s t := by
  obtain ⟨n, k, o, rfl⟩ := s.grant_frame h
  exact {}

theorem sameHolds_setRing (s : State) (r : RingId) (x : RequestRing)
    (hx : x.config = (s.ring r).config := by rfl) : SameHolds s (s.setRing r x) where
  config i := by
    rw [State.ring_setRing]
    split
    · next h => subst h; exact hx
    · rfl

theorem sameHolds_setCtx (s : State) (r : RingId) (x : RingContext)
    (hx : x.work.isReporting = (s.ctx r).work.isReporting := by rfl) : SameHolds s (s.setCtx r x) where
  reporting i := by
    rw [State.ctx_setCtx]
    split
    · next h => subst h; exact hx
    · rfl

theorem moves_setCtx (s : State) (r : RingId) (x : RingContext)
    (hx : x.work.isReporting = (s.ctx r).work.isReporting := by rfl) : Moves p s (s.setCtx r x) :=
  moves_same (sameHolds_setCtx s r x hx)

/-- A context that reports nothing takes up work. -/
theorem moves_setWork (s : State) (r : RingId) (w : Work) (hs : (s.ctx r).work.isReporting = false)
    (hw : w.isReporting = false) : Moves p s (s.setWork r w) :=
  moves_setCtx s r _ (hw.trans hs.symm)

theorem sameHolds_setCRing (s : State) (c : CRingId) (x : CompletionRing)
    (hx : x.list = (s.cring c).list := by rfl) : SameHolds s (s.setCRing c x) where
  lists i := by
    rw [State.cring_setCRing]
    split
    · next h => subst h; exact hx
    · rfl

theorem sameHolds_makeReady (s : State) : SameHolds s s.makeReady where
  reporting r := by rw [State.ctx_makeReady]; exact Work.isReporting_makeReady _

/-! ### Ends of requests and claims -/

/-- A context that reports nothing ends its request. -/
theorem moves_finish (s : State) (r : RingId) (quiet : Bool) (o : Report) (hs : (s.ctx r).work.isReporting = false) :
    Moves p s (s.finish r quiet o) :=
  .ite (moves_setWork s r .empty hs rfl) (.single (.report r o hs))

theorem moves_claimAll (s : State) {st : Status} (hst : st ≠ .timeout) (es : List EntryId) :
    Moves p s (s.claimAll st es) :=
  moves_foldl _ (fun _ e => .single (.claim st e fun h => absurd h hst)) es s

theorem ctx_claimAll (s : State) (st : Status) (es : List EntryId) (r : RingId) :
    (s.claimAll st es).ctx r = s.ctx r := by
  obtain ⟨_, _, _, _, _, _, h⟩ := s.claimAll_frame st es
  rw [h]
  rfl

theorem moves_startRequest (s : State) (r : RingId) (q : Request) (hs : (s.ctx r).work.isReporting = false) :
    Moves p s (s.startRequest r q) := by
  unfold State.startRequest
  split
  · exact moves_finish s r _ _ hs
  · exact moves_setWork s r _ hs rfl
  · exact moves_setWork s r _ hs rfl
  · rw [setWork_clearProgress]; exact moves_setCtx s r _ hs.symm
  · rw [setWork_clearProgress]; exact moves_setCtx s r _ hs.symm
  · exact (moves_claimAll s (by decide) _).trans (moves_finish _ r _ _ (by rw [ctx_claimAll]; exact hs))

theorem moves_releaseFence (s : State) (r : RingId) : Moves p s (s.releaseFence r) := by
  unfold State.releaseFence
  split
  · next q hw => exact .ite (moves_startRequest s r q (by rw [hw]; rfl)) .refl
  · exact .refl

/-! ### Records of the request rings -/

theorem moves_takeRecord (s : State) (r : RingId) (x : Slot) (y : Option Slot) (n : Nat)
    (hs : (s.ctx r).work.isReporting = false) : Moves p s (s.takeRecord r x y n) := by
  have hc : Moves p s (s.consumeSlots r n) := moves_same (sameHolds_setRing s r _)
  refine hc.trans ?_
  unfold State.takeRecord
  dsimp only
  split
  · exact moves_finish _ r _ _ hs
  · exact Moves.ite (moves_setWork _ r _ hs rfl) (moves_startRequest _ r _ hs)

/-- A record is taken by an EMPTY context alone (R108). -/
theorem oldestSlot_empty {r : RingId} {x : Slot} (h : s.oldestSlot r = some x) : (s.ctx r).work = .empty := by
  unfold State.oldestSlot at h
  split at h
  · next hc => simp_all
  · cases h

theorem moves_takeKind (s : State) (r : RingId) (k : Option RequestKind) : Moves p s (s.takeKind r k) := by
  unfold State.takeKind
  split
  · next x hx => exact .ite (moves_takeRecord s r _ _ _ (by rw [oldestSlot_empty hx]; rfl)) .refl
  · exact .refl

theorem moves_takeHold (s : State) (r : RingId) : Moves p s (s.takeHold r) := by
  unfold State.takeHold
  split
  · next x y hx hy => exact .ite (moves_takeRecord s r _ _ _ (by rw [oldestSlot_empty hx]; rfl)) .refl
  · exact .refl

/-! ### Admin requests -/

/-- The admin context, which reports nothing, ends its request (R154). -/
theorem moves_finishAdmin (s : State) (o : Report) (hs : ∀ o, s.adminCtx ≠ .reporting o) :
    Moves p s (s.finishAdmin o) := by
  refine .single (.admin s.admin (.reporting o) _ fun h => ?_)
  have hnil : s.adminArea.list = [] := by
    rw [State.AdminPart] at h
    split at h
    · next o' ho => exact absurd ho (hs o')
    · exact h
  simp [State.AdminPart, hnil]

theorem moves_endAdmin (s : State) (x : Slot) (st : Status) (n : Nat) (v : Option CellValue)
    (hs : s.adminCtx = .empty) : Moves p s (s.endAdmin x st n v) :=
  moves_finishAdmin s _ (by simp [hs])

/-- A request is carried out, and ends. -/
theorem Moves.endAdmin (h : Moves p s t) (ht : t.adminCtx = .empty) (x : Slot) (st : Status) (n : Nat)
    (v : Option CellValue) : Moves p s (t.endAdmin x st n v) := h.trans (moves_endAdmin t x st n v ht)

/-- A record is taken by an EMPTY admin context alone (R153). -/
theorem moves_takeAdmin (s : State) (k : Option AdminKind) (f : State → Slot → State)
    (hf : ∀ t x, t.adminCtx = .empty → Moves p t (f t x)) : Moves p s (s.takeAdmin k f) := by
  unfold State.takeAdmin
  split
  · next x hx =>
    have hempty : s.adminCtx = .empty := by
      unfold State.oldestAdmin at hx
      split at hx
      · next hc => simp_all
      · cases hx
    have hc : Moves p s s.consumeAdmin := moves_same {}
    exact .ite (hc.trans (hf _ x hempty)) .refl
  · exact .refl

theorem moves_configureRing (s : State) (x : Slot) (hs : s.adminCtx = .empty) : Moves p s (s.configureRing x) := by
  have hend (st : Status) : Moves p s (s.endAdmin x st) := moves_endAdmin s x st _ _ hs
  unfold State.configureRing
  split
  · exact hend _
  · next r _ =>
    split
    · exact hend _
    · next g _ =>
      split
      · next hc =>
        simp only [State.canConfigure, Bool.and_eq_true, decide_eq_true_eq] at hc
        obtain ⟨⟨⟨-, hocc⟩, hwork⟩, -⟩ := hc
        have hinstall : Moves p s (s.installRing r g) := .single (.configure r _ (by rw [hwork]; rfl) hocc)
        exact hinstall.endAdmin hs _ _ _ _
      · exact hend _

theorem moves_startRing (s : State) (x : Slot) (hs : s.adminCtx = .empty) : Moves p s (s.startRing x) := by
  unfold State.startRing
  split
  · exact moves_endAdmin s x _ _ _ hs
  · next r _ =>
    exact .ite (Moves.endAdmin (moves_same (sameHolds_setRing s r _)) hs _ _ _ _) (moves_endAdmin s x _ _ _ hs)

theorem moves_stopRing (s : State) (x : Slot) (hs : s.adminCtx = .empty) : Moves p s (s.stopRing x) := by
  unfold State.stopRing
  split
  · exact moves_endAdmin s x _ _ _ hs
  · next r _ =>
    split
    · exact Moves.endAdmin (moves_same (sameHolds_setRing s r _)) hs _ _ _ _
    all_goals exact moves_endAdmin s x _ _ _ hs

theorem moves_abortRequest (s : State) (r : RingId) (q : Request) (n : Nat) (m : Bool)
    (hs : (s.ctx r).work.isReporting = false) : Moves p s (s.abortRequest r q n m) := by
  unfold State.abortRequest
  dsimp only
  split
  · exact (moves_setCtx s r { s.ctx r with progress := 0 }).trans
      (moves_finish _ r _ _ (by rw [State.ctx_setCtx_self]; exact hs))
  · exact moves_finish s r _ _ hs

theorem moves_abortContext (s : State) (r : RingId) : Moves p s (s.abortContext r) := by
  unfold State.abortContext
  split
  · exact .refl
  · next hw => exact moves_abortRequest s r _ _ _ (by rw [hw]; rfl)
  · next hw => exact moves_abortRequest s r _ _ _ (by rw [hw]; rfl)
  · next hw => exact moves_abortRequest s r _ _ _ (by rw [hw]; rfl)
  · next hw => exact moves_abortRequest s r _ _ _ (by rw [hw]; rfl)
  · exact .refl

theorem moves_resetIndices (s : State) (r : RingId) : Moves p s (s.resetIndices r) :=
  (moves_same (sameHolds_setRing s r _)).trans (moves_setCtx _ r _)

theorem adminCtx_finish (s : State) (r : RingId) (quiet : Bool) (o : Report) :
    (s.finish r quiet o).adminCtx = s.adminCtx := by
  obtain ⟨_, _, h⟩ := s.finish_frame r quiet o
  rw [h]

theorem adminCtx_claimAll (s : State) (st : Status) (es : List EntryId) :
    (s.claimAll st es).adminCtx = s.adminCtx := by
  obtain ⟨_, _, _, _, _, _, h⟩ := s.claimAll_frame st es
  rw [h]

theorem adminCtx_abortContext (s : State) (r : RingId) : (s.abortContext r).adminCtx = s.adminCtx := by
  have habort (q : Request) (n : Nat) (m : Bool) : (s.abortRequest r q n m).adminCtx = s.adminCtx := by
    unfold State.abortRequest
    dsimp only
    rw [adminCtx_finish]
    split <;> rfl
  unfold State.abortContext
  split
  · rfl
  · exact habort _ _ _
  · exact habort _ _ _
  · exact habort _ _ _
  · exact habort _ _ _
  · rfl

theorem moves_resetRing (s : State) (x : Slot) (hs : s.adminCtx = .empty) : Moves p s (s.resetRing x) := by
  unfold State.resetRing
  split
  · exact moves_endAdmin s x _ _ _ hs
  · next r _ =>
    have htaken : Moves p s (s.resetTaken r) :=
      ((moves_resetIndices s r).trans (moves_claimAll _ (by decide) _)).trans (moves_abortContext _ r)
    have hadmin : (s.resetTaken r).adminCtx = .empty := by
      rw [State.resetTaken, adminCtx_abortContext, adminCtx_claimAll]
      exact hs
    exact .ite (moves_endAdmin s x _ _ _ hs) (htaken.endAdmin hadmin _ _ _ _)

/-- A configured completion ring keeps its outcome list (R131). -/
theorem list_decodeCRingConfig {x : Slot} {l : List Source} {y : CompletionRing}
    (h : decodeCRingConfig x l = some y) : y.list = l := by
  simp only [decodeCRingConfig] at h
  split at h
  · cases h; rfl
  · cases h

theorem moves_configureCRing (s : State) (x : Slot) (hs : s.adminCtx = .empty) : Moves p s (s.configureCRing x) := by
  unfold State.configureCRing
  split
  · exact moves_endAdmin s x _ _ _ hs
  · next c _ =>
    split
    · exact moves_endAdmin s x _ _ _ hs
    · next y hy =>
      exact .ite (moves_endAdmin s x _ _ _ hs)
        (Moves.endAdmin (moves_same (sameHolds_setCRing s c y (list_decodeCRingConfig hy))) hs _ _ _ _)

theorem moves_cancelWaiting (s : State) (r : RingId) : Moves p s (s.cancelWaiting r) := by
  unfold State.cancelWaiting
  split
  · next hw => exact moves_finish s r _ _ (by rw [hw]; rfl)
  · exact .refl

theorem adminCtx_cancelWaiting (s : State) (r : RingId) : (s.cancelWaiting r).adminCtx = s.adminCtx := by
  unfold State.cancelWaiting
  split
  · exact adminCtx_finish s r _ _
  · rfl

theorem adminCtx_cancelRings (s : State) (rs : List RingId) (value mask : BitVec 16) :
    (s.cancelRings rs value mask).adminCtx = s.adminCtx := by
  unfold State.cancelRings
  dsimp only
  obtain ⟨_, _, _, _, _, _, _, h⟩ := State.releaseFences_frame
    ((rs.filter (s.waitingMatch value mask)).foldl State.cancelWaiting
      (s.claimAll .cancelled (s.cancelMatches rs value mask))) rs
  rw [h]
  exact (foldl_view State.adminCtx _ adminCtx_cancelWaiting _ _).trans (adminCtx_claimAll s _ _)

theorem moves_cancelHoldsRequest (s : State) (x : Slot) (hs : s.adminCtx = .empty) :
    Moves p s (s.cancelHoldsRequest x) := by
  unfold State.cancelHoldsRequest
  split
  · exact moves_endAdmin s x _ _ _ hs
  · next rs _ =>
    have hcancel : Moves p s (s.cancelRings rs (slotHalf x 32) (slotHalf x 48)) :=
      ((moves_claimAll s (by decide) _).trans (moves_foldl _ moves_cancelWaiting _ _)).trans
        (moves_foldl _ moves_releaseFence rs _)
    exact hcancel.endAdmin ((adminCtx_cancelRings s _ _ _).trans hs) _ _ _ _

theorem moves_clearCellsRequest (s : State) (x : Slot) (hs : s.adminCtx = .empty) :
    Moves p s (s.clearCellsRequest x) := by
  refine .ite (moves_endAdmin s x _ _ _ hs) (.single (.admin s.admin _ s.adminArea fun h => ?_))
  rw [State.AdminPart, hs] at h
  exact h

theorem moves_readStatusRequest (s : State) (x : Slot) (hs : s.adminCtx = .empty) :
    Moves p s (s.readStatusRequest x) := by
  unfold State.readStatusRequest
  split <;> exact moves_endAdmin s x _ _ _ hs

/-! ### Outcomes that are written or discarded -/

theorem sameHolds_freeEntry (h : SameHolds s t) (e : EntryId) : SameHolds (s.freeEntry e) (t.freeEntry e) := by
  cases he : s.entry e with
  | none =>
    have he' : t.entry e = none := (h.entry e).trans he
    simp only [State.freeEntry, he, he']
    exact h
  | some x =>
    have he' : t.entry e = some x := (h.entry e).trans he
    refine { mem := ?_, table := ?_, watch := ?_, deadlines := ?_, occupancy := ?_, wakeQueue := ?_, scan := ?_,
             lists := fun c => ?_, reporting := fun r => ?_, config := fun r => ?_, adminCtx := ?_, adminList := ?_ }
    · rw [freeEntry_mem, freeEntry_mem, h.mem]
    · rw [State.freeEntry_some _ e x he, State.freeEntry_some _ e x he']
      exact congrArg (·.set e none) h.table
    · rw [freeEntry_watch, freeEntry_watch, h.watch]
    · rw [freeEntry_deadlines, freeEntry_deadlines, h.deadlines]
    · rw [State.freeEntry_some _ e x he, State.freeEntry_some _ e x he', h.occ]
      exact congrArg (·.set x.origin (s.occ x.origin - 1)) h.occupancy
    · rw [freeEntry_wakeQueue, freeEntry_wakeQueue, h.wakeQueue]
    · rw [freeEntry_scan, freeEntry_scan, h.scan]
    · rw [cring_freeEntry, cring_freeEntry, h.lists]
    · rw [isReporting_freeEntry, isReporting_freeEntry, h.reporting]
    · rw [ring_freeEntry, ring_freeEntry, h.config]
    · rw [freeEntry_adminCtx, freeEntry_adminCtx, h.adminCtx]
    · rw [freeEntry_adminArea, freeEntry_adminArea, h.adminList]

theorem sameHolds_setWork (h : SameHolds s t) (r : RingId) (w : Work) :
    SameHolds (s.setWork r w) (t.setWork r w) where
  mem := h.mem
  table := h.table
  watch := h.watch
  deadlines := h.deadlines
  occupancy := h.occupancy
  wakeQueue := h.wakeQueue
  scan := h.scan
  lists := h.lists
  reporting i := by
    rw [State.ctx_setWork, State.ctx_setWork]
    split
    · rfl
    · exact h.reporting i
  config := h.config
  adminCtx := h.adminCtx
  adminList := h.adminList

theorem sameHolds_deliver (h : SameHolds s t) (x : Source) : SameHolds (s.deliver x) (t.deliver x) := by
  cases x with
  | entry e => exact sameHolds_freeEntry h e
  | ring r => exact sameHolds_setWork h r .empty
  | admin => exact { h with adminCtx := rfl }

theorem SameHolds.trans (h : SameHolds s t) (k : SameHolds t u) : SameHolds s u where
  mem := k.mem.trans h.mem
  table := k.table.trans h.table
  watch := k.watch.trans h.watch
  deadlines := k.deadlines.trans h.deadlines
  occupancy := k.occupancy.trans h.occupancy
  wakeQueue := k.wakeQueue.trans h.wakeQueue
  scan := k.scan.trans h.scan
  lists c := (k.lists c).trans (h.lists c)
  reporting r := (k.reporting r).trans (h.reporting r)
  config r := (k.config r).trans (h.config r)
  adminCtx := k.adminCtx.trans h.adminCtx
  adminList := k.adminList.trans h.adminList

theorem list_countRecord (x : CompletionRing) : x.countRecord.1.list = x.list := by
  unfold CompletionRing.countRecord
  split
  · split <;> rfl
  · rfl

theorem moves_writeRingRecord (s : State) (c : CRingId) (hp : p.free) : Moves p s (s.writeRingRecord c) := by
  unfold State.writeRingRecord
  dsimp only
  split
  · exact .refl
  · next src rest hl =>
    split
    · exact .refl
    · next bytes _ =>
      refine .trans (.single (.deliver (.ring c) src (by simp [State.outcomeList, hl]) hp))
        (moves_same (sameHolds_deliver ?_ src))
      have hset (w : PostedWrite) : SameHolds (s.popList (.ring c))
          ((s.handOver w).setCRing c (s.cring c).recordWritten.countRecord.1) :=
        { lists := fun d => by
            rw [State.popList, State.cring_setCRing, State.cring_setCRing]
            split
            · exact list_countRecord _
            · rfl }
      split
      · exact (hset _).trans (sameHolds_sendMessage _ _)
      · exact hset _

theorem moves_writeAdminRecord (s : State) (hp : p.free) : Moves p s s.writeAdminRecord := by
  unfold State.writeAdminRecord
  dsimp only
  split
  · exact .refl
  · next src rest hl =>
    split
    · exact .refl
    · refine .trans (.single (.deliver .admin src (by simp [State.outcomeList, hl]) hp))
        (moves_same (sameHolds_deliver (SameHolds.trans ?_ (sameHolds_sendMessage _ _)) src))
      exact { adminList := by simp [State.popList, hl] }

/-- A discard touches the lists of no completion ring. -/
theorem discard_setCRing (s : State) (c : CRingId) (y : CompletionRing) (x : Source) :
    (s.setCRing c y).discard x = (s.discard x).setCRing c y := by
  cases x with
  | entry e =>
    change (s.setCRing c y).freeEntry e = (s.freeEntry e).setCRing c y
    unfold State.freeEntry
    rw [State.setCRing_entry]
    split <;> rfl
  | ring r => rfl
  | admin => rfl

theorem cring_discard (s : State) (x : Source) (c : CRingId) : (s.discard x).cring c = s.cring c := by
  cases x with
  | entry e => exact cring_freeEntry s e c
  | ring r => rfl
  | admin => rfl

theorem foldl_discard_setCRing (s : State) (c : CRingId) (y : CompletionRing) (l : List Source) :
    l.foldl State.discard (s.setCRing c y) = (l.foldl State.discard s).setCRing c y := by
  induction l generalizing s with
  | nil => rfl
  | cons x xs ih => rw [List.foldl_cons, List.foldl_cons, discard_setCRing, ih]

/-- The outcomes of a completion ring are discarded from the head of its list on, and the empty ring is reset (R133). -/
theorem moves_resetCRingTaken (s : State) (c : CRingId) (hp : p.free) : Moves p s (s.resetCRingTaken c) := by
  unfold State.resetCRingTaken
  generalize hl : (s.cring c).list = l
  induction l generalizing s with
  | nil => exact moves_same (sameHolds_setCRing s c .reset hl.symm)
  | cons x xs ih =>
    have hhead : (s.cring c).list.head? = some x := by rw [hl]; rfl
    have hpop : Moves p s ((s.popList (.ring c)).discard x) := by
      cases x with
      | entry e => exact .single (.deliver (.ring c) _ hhead hp)
      | ring r => exact .single (.deliver (.ring c) _ hhead hp)
      | admin => exact .single (.dropAdmin c hhead)
    have hrest := ih ((s.popList (.ring c)).discard x) (by
      rw [cring_discard, State.popList, State.cring_setCRing_self, hl]
      rfl)
    rw [State.popList, discard_setCRing, foldl_discard_setCRing, State.setCRing_setCRing] at hrest
    rw [State.popList, discard_setCRing] at hpop
    exact hpop.trans hrest

theorem adminCtx_discard (s : State) (x : Source) : (s.discard x).adminCtx = s.adminCtx := by
  cases x with
  | entry e => exact freeEntry_adminCtx s e
  | ring r => rfl
  | admin => rfl

theorem moves_resetCRing (s : State) (x : Slot) (hp : p.free) (hs : s.adminCtx = .empty) :
    Moves p s (s.resetCRing x) := by
  unfold State.resetCRing
  split
  · exact moves_endAdmin s x _ _ _ hs
  · next c _ =>
    have hadmin : (s.resetCRingTaken c).adminCtx = .empty :=
      (foldl_view State.adminCtx _ adminCtx_discard _ s).trans hs
    exact .ite (moves_endAdmin s x _ _ _ hs) ((moves_resetCRingTaken s c hp).endAdmin hadmin _ _ _ _)

/-! ### Registers and device states -/

theorem moves_indexPost (s : State) (w : Word32) : Moves p s (s.indexPost w) := by
  have fault : Moves p s (s.setFault .postError) := moves_setFault s _
  unfold State.indexPost
  refine .ite fault ?_
  dsimp only
  split
  · exact .ite (moves_same (sameHolds_setRing s _ _)) fault
  · refine .ite (.ite (moves_same {}) fault) ?_
    split
    · exact .ite (moves_same (sameHolds_setCRing s _ _)) fault
    · exact .ite (.ite (moves_same {}) fault) fault

theorem moves_adminRegisterWrite (s : State) (f : State → State) (hf : Moves p s (f s)) :
    Moves p s (s.adminRegisterWrite f) := .ite hf (moves_setFault _ _)

theorem moves_enterResetting (s : State) (mid : Bool) : Moves p s (s.enterResetting mid) := by
  unfold State.enterResetting
  split
  · exact .refl
  · dsimp only
    split
    · exact moves_same ((sameHolds_chargeGrant s _).trans {})
    · exact moves_same {}

theorem moves_enable (s : State) : Moves p s s.enable := by
  have hadmin : Moves p s { s with
      admin := { AdminRing.reset with base := s.adminBase, size := s.adminSize.toNat }
      adminCtx := .empty
      adminArea := .reset } := .single (.admin _ _ _ fun _ => rfl)
  exact .ite (hadmin.trans (moves_same {})) (moves_setFault _ _)

theorem moves_controlWrite (s : State) (w : Word32) (mid : Bool) : Moves p s (s.controlWrite w mid) :=
  .ite (moves_enterResetting s mid) (.ite (moves_enable s) .refl)

theorem moves_writeRegister (s : State) (offset size : Nat) (w : Word32) :
    Moves p s (s.writeRegister offset size w) := by
  refine .ite .refl ?_
  split
  · exact moves_controlWrite _ _ _
  · exact moves_same {}
  · exact moves_adminRegisterWrite _ _ (moves_same {})
  · exact moves_adminRegisterWrite _ _ (moves_same {})
  · exact moves_adminRegisterWrite _ _ (moves_same {})
  · exact moves_indexPost _ _
  · exact .refl

theorem moves_access (s : State) (f : State → State) (hf : Moves p s (f s)) : Moves p s (s.access f) :=
  .ite hf .refl

theorem moves_readRegister (s : State) (offset : Nat) (bytes : List Byte) :
    Moves p s ((s.takeSnapshot offset).sendReply bytes) := by
  unfold State.takeSnapshot State.sendReply
  repeat' split
  all_goals exact moves_same {}

theorem moves_functionReset (s : State) (hp : p.free) : Moves p s s.functionReset :=
  .trans (.single (.reset s.mem (.inr rfl) hp)) (moves_same {})

/-! ### Time and reads -/

theorem moves_fetchFault (s : State) (r : RingId) : Moves p s (s.fetchFault r) :=
  .ite ((moves_same (sameHolds_setRing s r _)).trans (moves_setCtx _ r _)) .refl

theorem moves_adminFetchFault (s : State) : Moves p s s.adminFetchFault :=
  (moves_same ((sameHolds_makeReady s).trans {})).trans (moves_setFault _ _)

theorem moves_bulkFault (s : State) (r : RingId) : Moves p s (s.bulkFault r) := by
  unfold State.bulkFault
  split
  · next hw => exact moves_finish s r _ _ (by rw [hw]; rfl)
  · exact .refl

theorem moves_release (s : State) (i : PlaceId) : Moves p s (s.release i) := moves_same {}

theorem moves_returnFault (s : State) (i : PlaceId) (x : Read) : Moves p s (s.returnFault i x) := by
  obtain ⟨-, h⟩ | ⟨-, ⟨r, -, h⟩ | ⟨-, h⟩ | ⟨r, -, h⟩⟩ := s.returnFault_cases i x <;> rw [h]
  · exact moves_release s i
  · exact (moves_release s i).trans (moves_fetchFault _ r)
  · exact (moves_release s i).trans (moves_adminFetchFault _)
  · exact (moves_release s i).trans (moves_bulkFault _ r)

theorem moves_returnData (s : State) (i : PlaceId) (x : Read) (n : Nat) (f : State → State)
    (hf : ∀ t, Moves p t (f t)) : Moves p s (s.returnData i x n f) :=
  .ite .refl (.ite (.ite ((moves_release s i).trans (hf _)) (moves_release s i)) (moves_returnFault s i x))

theorem moves_bulkData (s : State) (r : RingId) (data : List CellValue) : Moves p s (s.bulkData r data) := by
  unfold State.bulkData
  dsimp only
  split
  · next q hw => exact moves_setCtx s r _ (by rw [hw]; rfl)
  · exact .refl

theorem moves_issueBulkRead (s : State) (i : PlaceId) (r : RingId) : Moves p s (s.issueBulkRead i r) := by
  unfold State.issueBulkRead
  split
  · next q b hw =>
    split
    · refine .trans (moves_same ?_) (moves_setWork _ r _ ?_ rfl)
      · exact {}
      · rw [State.setPlace_ctx, hw]; rfl
    · exact .refl
  · exact .refl

/-! ### Cell-port operations -/

/-- Ending a request does not read the cells. -/
theorem finish_setMem (s : State) (m : List Host.Cell) (r : RingId) (quiet : Bool) (o : Report) :
    State.finish { s with mem := m } r quiet o = { s.finish r quiet o with mem := m } := by
  unfold State.finish
  split <;> rfl

/-- An action is one store into its target, of the target's own value for NONE (R12, R15). -/
theorem performAction_storeCell (m : List Host.Cell) (act : Action) :
    ∃ v, ((performAction m act).mem, (performAction m act).flags.changed) = storeCell m act.target v := by
  unfold performAction
  split
  · exact ⟨readCell m act.target, by simp [storeCell, Flags.none]⟩
  · refine ⟨scopedValue act.op act.scope (readCell m act.target) act.a act.b, ?_⟩
    dsimp only [opFlags, storeCell]
    generalize scopedValue act.op act.scope (readCell m act.target) act.a act.b = new
    generalize readCell m act.target = old
    by_cases h : old = new
    · simp [h]
    · simp [h, Ne.symm h]

theorem mem_finish (s : State) (r : RingId) (quiet : Bool) (o : Report) : (s.finish r quiet o).mem = s.mem := by
  obtain ⟨_, _, h⟩ := s.finish_frame r quiet o
  rw [h]

/-- A cell is stored and its change reported (R22). -/
theorem moves_store (s : State) {m : List Host.Cell} {b : Bool} {c : CellId} (v : CellValue)
    (h : (m, b) = storeCell s.mem c v) : Moves p s (State.reportIf { s with mem := m } b c) :=
  .single (.store m b c v h)

theorem moves_fireAtArrival (s : State) (r : RingId) (h : Header) (act : Action) (w : CellValue)
    (hs : (s.ctx r).work.isReporting = false) : Moves p s (s.fireAtArrival r h act w) := by
  obtain ⟨v, hv⟩ := performAction_storeCell s.mem act
  unfold State.fireAtArrival
  dsimp only
  rw [finish_setMem]
  refine (moves_finish s r h.quiet _ hs).trans (moves_store _ v ?_)
  rw [hv, mem_finish]

theorem moves_armOrWait (s : State) (r : RingId) (q : Request) (act : Action) (k : Condition) (d : Option Time)
    (hs : (s.ctx r).work.isReporting = false) (hfalse : k.holds (readCell s.mem k.cell) = false) (hp : ¬ p.free) :
    Moves p s (s.armOrWait r q act k d) := by
  unfold State.armOrWait
  split
  · exact moves_finish s r _ _ hs
  · next hq =>
    split
    · exact moves_setWork s r _ hs rfl
    · next e he =>
      have hfree : s.entry e = none := by simpa using List.find?_some he
      exact .trans (.single (.arm r q.header act k d e hfree hfalse (Nat.not_le.1 hq) hp))
        (moves_setWork _ r .empty hs rfl)

theorem moves_holdArrival (s : State) (r : RingId) (q : Request) (act : Action) (k : Condition) (n : BitVec 32)
    (hs : (s.ctx r).work.isReporting = false) (hp : ¬ p.free) : Moves p s (s.holdArrival r q act k n) := by
  unfold State.holdArrival
  dsimp only
  split
  · exact moves_fireAtArrival s r _ act _ hs
  · next hfalse =>
    exact .ite (moves_finish s r _ _ hs) (moves_armOrWait s r q act k _ hs (Bool.not_eq_true _ ▸ hfalse) hp)

theorem moves_holdRetry (s : State) (r : RingId) (q : Request) (act : Action) (k : Condition) (d : Option Time)
    (hs : (s.ctx r).work.isReporting = false) (hp : ¬ p.free) : Moves p s (s.holdRetry r q act k d) := by
  unfold State.holdRetry
  dsimp only
  split
  · exact moves_fireAtArrival s r _ act _ hs
  · next hfalse =>
    exact .ite (moves_finish s r _ _ hs) (moves_armOrWait s r q act k _ hs (Bool.not_eq_true _ ▸ hfalse) hp)

theorem moves_testEntry (s : State) (c : CellId) (e : EntryId) (x : HoldEntry) (hscan : s.scan = .scanning c e)
    (he : s.entry e = some x) (hx : x.isArmed = true) : Moves p s (s.testEntry c e x) := by
  unfold State.testEntry
  dsimp only
  split
  · exact .trans (.single (.fire c e x _ hscan he hx)) (moves_releaseFence _ _)
  · next hfalse => exact .single (.pass c e x hscan he (Bool.not_eq_true _ ▸ hfalse))

/-- One staged cell is stored: the context's progress and mark, then the cell (R125). -/
theorem storeStaged_eq (s : State) (r : RingId) (cell k : Nat) :
    ∃ x v, x.work = (s.ctx r).work ∧
      s.storeStaged r cell k = ({ s.setCtx r x with mem := (storeCell s.mem cell v).1 }, (storeCell s.mem cell v).2) :=
  ⟨{ s.ctx r with
      progress := k + 1
      changedMark := (s.ctx r).changedMark || (storeCell s.mem cell (readCell (s.ctx r).staging k)).2 },
    readCell (s.ctx r).staging k, rfl, rfl⟩

theorem endBulkWrite_setMem (s : State) (m : List Host.Cell) (r : RingId) (h : Header) (n : Nat) :
    State.endBulkWrite { s with mem := m } r h n = { s.endBulkWrite r h n with mem := m } :=
  finish_setMem s m r h.quiet _

/-- The admin context's progress does not depend on the cells. -/
theorem advanceClear_setMem (s : State) (m : List Host.Cell) (kind : Byte) (tag : BitVec 16) (f n k : Nat)
    (b : Bool) : State.advanceClear { s with mem := m } kind tag f n k b =
      { s.advanceClear kind tag f n k b with mem := m } := by
  unfold State.advanceClear
  split <;> rfl

theorem moves_advanceClear (s : State) (kind : Byte) (tag : BitVec 16) (f n k : Nat) (b : Bool)
    (hs : ∀ o, s.adminCtx ≠ .reporting o) : Moves p s (s.advanceClear kind tag f n k b) := by
  refine .ite (.single (.admin s.admin _ s.adminArea fun h => ?_)) (moves_finishAdmin s _ hs)
  rw [State.AdminPart] at h ⊢
  split at h
  · next o ho => exact absurd ho (hs o)
  · exact h

end

/-! ### The commands -/

/-- What a command may do beside the ends that any command may bring: EXPIRY ends entries whose deadline is reached
(R80), and record writes and resets free the sources of outcomes (R51, R52). -/
def State.permits (s : State) (c : Instr) : Permits where
  timeout e := c = .expiry ∧ s.device = .running ∧
    ∃ x d, s.entry e = some x ∧ x.deadline = some d ∧ expired d s.timeBase = true
  free := (∃ l, c = .completionRecordWrite l) ∨ c = .resetCompletionRing ∨ c = .powerOnReset ∨ c = .resetValuesTaken

/-- Every next state of an outcome is reached by a run of moves. -/
def MovesTo (p : Permits) (s : State) (o : Host.Outcome State Fault Refusal) : Prop :=
  ∀ t, o = .next t → Moves p s t

section
variable {p : Permits} {s t : State}

theorem movesTo_next (h : Moves p s t) : MovesTo p s (.next t) := fun _ e => by cases e; exact h

theorem movesTo_same (s : State) : MovesTo p s (.next s) := movesTo_next .refl

theorem movesTo_fault (x : Fault) : MovesTo p s (.fault x) := fun _ e => by cases e

theorem movesTo_expiry (s : State) : MovesTo (s.permits .expiry) s (execExpiry s) := by
  refine movesTo_next ?_
  split
  · exact .refl
  · next e _ _ =>
    split
    · next x he =>
      split
      · next hc =>
        simp only [Bool.and_eq_true, decide_eq_true_eq, Option.any_eq_true] at hc
        obtain ⟨hrun, d, hd, hexp⟩ := hc
        have hclaim : Moves (s.permits .expiry) s (s.claimEnd .timeout e) :=
          .single (.claim .timeout e fun _ => ⟨rfl, hrun, x, d, he, hd, hexp⟩)
        exact hclaim.trans (moves_releaseFence _ _)
      · exact .refl
    · exact .refl

theorem movesTo_waitEntryTimeout (r : RingId) (s : State) : MovesTo p s (execWaitEntryTimeout r s) := by
  refine movesTo_next ?_
  split
  · next hw => exact .ite (moves_finish s r _ _ (by rw [hw]; rfl)) .refl
  · exact .refl

theorem movesTo_holdoffExpiry (c : CRingId) (s : State) : MovesTo p s (execHoldoffExpiry c s) :=
  movesTo_next (.ite (moves_same ((sameHolds_setCRing s c _).trans (sameHolds_sendMessage _ _))) .refl)

theorem movesTo_readTimeout (i : PlaceId) (s : State) : MovesTo p s (execReadTimeout i s) := by
  refine movesTo_next ?_
  split
  · exact .ite (moves_returnFault _ _ _) .refl
  · exact .refl

theorem sameHolds_issueRingFetch (s : State) (i : PlaceId) (r : RingId) : SameHolds s (s.issueRingFetch i r) where
  config j := by
    change ((State.setRing _ r _).ring j).config = _
    rw [State.ring_setRing]
    split
    · next h => subst h; rfl
    · rfl

theorem movesTo_fetchReadIssue (s : State) : MovesTo p s (execFetchReadIssue s) := by
  refine movesTo_next (.ite ?_ .refl)
  split
  · exact .refl
  · refine .ite (moves_same {}) ?_
    split
    · exact moves_same (sameHolds_issueRingFetch s _ _)
    · exact .refl

theorem movesTo_fetchReadFault (i : PlaceId) (s : State) : MovesTo p s (execFetchReadFault i s) := by
  refine movesTo_next ?_
  split
  · split
    · exact moves_returnFault _ _ _
    · exact .refl
  · exact .refl

theorem movesTo_adminFetchReadFault (i : PlaceId) (s : State) : MovesTo p s (execAdminFetchReadFault i s) := by
  refine movesTo_next ?_
  split
  · split
    · exact moves_returnFault _ _ _
    · exact .refl
  · exact .refl

theorem movesTo_bulkDataFault (i : PlaceId) (s : State) : MovesTo p s (execBulkDataFault i s) := by
  refine movesTo_next ?_
  split
  · split
    · exact moves_returnFault _ _ _
    · exact .refl
  · exact .refl

theorem movesTo_fetchReadReturn (i : PlaceId) (data : List Slot) (s : State) :
    MovesTo p s (execFetchReadReturn i data s) := by
  refine movesTo_next ?_
  split
  · split
    · exact moves_returnData _ _ _ _ _ fun t => .ite (moves_same (sameHolds_setRing t _ _)) .refl
    · exact .refl
  · exact .refl

theorem movesTo_adminFetchReturn (i : PlaceId) (data : List Slot) (s : State) :
    MovesTo p s (execAdminFetchReturn i data s) := by
  refine movesTo_next ?_
  split
  · split
    · exact moves_returnData _ _ _ _ _ fun _ => moves_same {}
    · exact .refl
  · exact .refl

theorem movesTo_bulkDataReturn (i : PlaceId) (data : List CellValue) (s : State) :
    MovesTo p s (execBulkDataReturn i data s) := by
  refine movesTo_next ?_
  split
  · split
    · exact moves_returnData _ _ _ _ _ fun t => moves_bulkData t _ _
    · exact .refl
  · exact .refl

theorem movesTo_bulkDataReadIssue (s : State) : MovesTo p s (execBulkDataReadIssue s) := by
  refine movesTo_next (.ite ?_ .refl)
  split
  · exact moves_issueBulkRead _ _ _
  · exact .refl

theorem movesTo_fetchEventEntry (r : RingId) (s : State) : MovesTo p s (execFetchEventEntry r s) := by
  refine movesTo_next ?_
  split
  · split
    · next hc =>
      simp only [Bool.and_eq_true, decide_eq_true_eq] at hc
      obtain ⟨-, hw⟩ := hc
      exact (moves_setCtx s r { s.ctx r with event := none }).trans
        (moves_finish _ r _ _ (by rw [State.ctx_setCtx_self, hw]; rfl))
    · exact .refl
  · exact .refl

theorem movesTo_drainEnd (r : RingId) (s : State) : MovesTo p s (execDrainEnd r s) :=
  movesTo_next (.ite (moves_same (sameHolds_setRing s r _)) .refl)

theorem movesTo_completionRecordWrite (l : ListId) (s : State) (hp : p.free) :
    MovesTo p s (execCompletionRecordWrite l s) := by
  refine movesTo_next (.ite ?_ .refl)
  cases l with
  | admin => exact moves_writeAdminRecord s hp
  | ring c => exact moves_writeRingRecord s c hp

theorem movesTo_heldMessageRelease (s : State) : MovesTo p s (execHeldMessageRelease s) := by
  refine movesTo_next ?_
  split
  · exact moves_same (sameHolds_releaseVector _ _)
  · exact .refl

theorem movesTo_postedWriteDepart (s : State) : MovesTo p s (execPostedWriteDepart s) := by
  refine movesTo_next (.ite ?_ .refl)
  split
  · exact .refl
  · exact moves_same {}

theorem movesTo_configurationSpaceWrite (cfg : ConfigSpace) (s : State) :
    MovesTo p s (execConfigurationSpaceWrite cfg s) := by
  refine movesTo_next (.trans (Moves.ite (moves_same ?_) (moves_same ?_)) (moves_same (sameHolds_dropMessages _)))
  · exact {}
  · exact {}

theorem movesTo_microsecondTick (s : State) : MovesTo p s (execMicrosecondTick s) := by
  refine movesTo_next (moves_same { lists := fun c => ?_ })
  change (if s.device = .running then s.crings.map CompletionRing.tick else s.crings)[c].list = (s.cring c).list
  split
  · simp [CompletionRing.tick, State.cring]
  · rfl

/-! The cell-port operations, under their grant. -/

theorem movesTo_updateOperation (r : RingId) (s : State) : MovesTo p s (execUpdateOperation r s) := by
  refine movesTo_next ?_
  split
  · next h act hw =>
    split
    · next s1 hg =>
      have hsame := sameHolds_grant hg
      exact (moves_same hsame).trans (moves_fireAtArrival s1 r h act 0 (by rw [hsame.reporting, hw]; rfl))
    · exact .refl
  · exact .refl

theorem movesTo_holdArrival (r : RingId) (s : State) (hp : ¬ p.free) : MovesTo p s (execHoldArrival r s) := by
  refine movesTo_next ?_
  split
  · next h act k n hw =>
    split
    · next s1 hg =>
      have hsame := sameHolds_grant hg
      exact (moves_same hsame).trans (moves_holdArrival s1 r _ act k n (by rw [hsame.reporting, hw]; rfl) hp)
    · exact .refl
  · exact .refl

theorem movesTo_holdRetry (r : RingId) (s : State) (hp : ¬ p.free) : MovesTo p s (execHoldRetry r s) := by
  refine movesTo_next ?_
  split
  · next h act k n d hw =>
    split
    · next s1 hg =>
      have hsame := sameHolds_grant hg
      exact (moves_same hsame).trans (moves_holdRetry s1 r _ act k d (by rw [hsame.reporting, hw]; rfl) hp)
    · exact .refl
  · exact .refl

theorem movesTo_scanStep (s : State) : MovesTo p s (execScanStep s) := by
  refine movesTo_next ?_
  split
  · next c e hscan =>
    split
    · next x he =>
      split
      · next hx =>
        split
        · next s1 hg =>
          have hsame := sameHolds_grant hg
          exact (moves_same hsame).trans
            (moves_testEntry s1 c e x (hsame.scan.trans hscan) ((hsame.entry e).trans he) hx)
        · exact .refl
      · exact .refl
    · exact .refl
  · exact .refl

theorem movesTo_bulkReadCell (r : RingId) (s : State) : MovesTo p s (execBulkReadCell r s) := by
  unfold execBulkReadCell
  split
  · next h f n host hw =>
    dsimp only
    split
    · split
      · next s1 hg =>
        split
        · exact movesTo_fault _
        · have hstage : Moves p s (s1.stageCell r (f + (s.ctx r).progress) (s.ctx r).progress) :=
            (moves_same (sameHolds_grant hg)).trans (moves_setCtx _ r _)
          have hwork : ((s1.stageCell r (f + (s.ctx r).progress) (s.ctx r).progress).ctx r).work.isReporting =
              false := by
            rw [State.stageCell, State.ctx_setCtx_self]
            exact ((sameHolds_grant hg).reporting r).trans (by rw [hw]; rfl)
          refine movesTo_next (.ite hstage (hstage.trans ?_))
          refine .trans (moves_same ?_) (moves_finish _ r _ _ hwork)
          exact {}
      · exact movesTo_same s
    · exact movesTo_same s
  · exact movesTo_same s

theorem movesTo_bulkWriteCell (r : RingId) (s : State) : MovesTo p s (execBulkWriteCell r s) := by
  unfold execBulkWriteCell
  split
  · next h f n host hw =>
    dsimp only
    split
    · split
      · next s1 hg =>
        split
        · next hc =>
          have hsame := sameHolds_grant hg
          obtain ⟨x, v, hx, heq⟩ := storeStaged_eq s1 r (f + (s.ctx r).progress) (s.ctx r).progress
          have hctx : Moves p s1 (s1.setCtx r x) := moves_setCtx s1 r x (by rw [hx])
          have hwork : ((s1.setCtx r x).ctx r).work.isReporting = false := by
            rw [State.ctx_setCtx_self, hx, hsame.reporting, hw]
            rfl
          rw [heq]
          refine movesTo_next (((moves_same hsame).trans hctx).trans ?_)
          split
          · exact moves_store _ v rfl
          · rw [endBulkWrite_setMem]
            have hmem : ((s1.setCtx r x).endBulkWrite r h n).mem = s1.mem := mem_finish _ _ _ _
            exact (moves_finish _ r h.quiet _ hwork).trans (moves_store _ v (by rw [← hmem]; rfl))
        · exact movesTo_fault _
      · exact movesTo_same s
    · exact movesTo_same s
  · exact movesTo_same s

theorem movesTo_clearCellsCell (s : State) : MovesTo p s (execClearCellsCell s) := by
  unfold execClearCellsCell
  split
  · next kind tag f n k m ha =>
    split
    · split
      · next s1 hg =>
        split
        · next hc =>
          have hsame := sameHolds_grant hg
          refine movesTo_next ((moves_same hsame).trans ?_)
          rw [advanceClear_setMem]
          refine (moves_advanceClear s1 kind tag f n k _ (by simp [hsame.adminCtx, ha])).trans
            (moves_store _ 0 ?_)
          unfold State.advanceClear
          split <;> rfl
        · exact movesTo_fault _
      · exact movesTo_same s
    · exact movesTo_same s
  · exact movesTo_same s

end

/-- Every command is a run of moves, within what it may do. -/
theorem exec_moves (c : Instr) (s : State) : MovesTo (s.permits c) s (exec c s) := by
  cases c with
  | powerOnReset =>
    have hfree : (s.permits .powerOnReset).free := .inr (.inr (.inl rfl))
    exact movesTo_next (.trans (.single (.reset [] (.inl rfl) hfree)) (moves_same {}))
  | linkReset mid => exact movesTo_next ((moves_enterResetting s mid).trans (moves_same {}))
  | controlEnable w => exact movesTo_next (moves_access s _ (moves_controlWrite _ _ _))
  | controlReset w mid => exact movesTo_next (moves_access s _ (moves_controlWrite _ _ _))
  | resetValuesTaken => exact movesTo_next (.ite (moves_functionReset s (.inr (.inr (.inr rfl)))) .refl)
  | faultWrite w => exact movesTo_next (moves_access s _ (moves_same {}))
  | adminBaseLowWrite w => exact movesTo_next (moves_access s _ (moves_adminRegisterWrite _ _ (moves_same {})))
  | adminBaseHighWrite w => exact movesTo_next (moves_access s _ (moves_adminRegisterWrite _ _ (moves_same {})))
  | adminSizeWrite w => exact movesTo_next (moves_access s _ (moves_adminRegisterWrite _ _ (moves_same {})))
  | requestRingProducerPost w => exact movesTo_next (moves_access s _ (moves_indexPost _ _))
  | adminProducerPost w => exact movesTo_next (moves_access s _ (moves_indexPost _ _))
  | completionConsumerPost w => exact movesTo_next (moves_access s _ (moves_indexPost _ _))
  | adminCompletionConsumerPost w => exact movesTo_next (moves_access s _ (moves_indexPost _ _))
  | timeLowRead first count => exact movesTo_next (moves_access s _ (moves_readRegister _ _ _))
  | registerWriteIgnored offset size w => exact movesTo_next (moves_access s _ (moves_writeRegister _ _ _ _))
  | microsecondTick => exact movesTo_microsecondTick s
  | expiry => exact movesTo_expiry s
  | waitEntryTimeout r => exact movesTo_waitEntryTimeout r s
  | holdoffExpiry c => exact movesTo_holdoffExpiry c s
  | readTimeout i => exact movesTo_readTimeout i s
  | fetchReadIssue => exact movesTo_fetchReadIssue s
  | fetchReadReturn i data => exact movesTo_fetchReadReturn i data s
  | fetchReadFault i => exact movesTo_fetchReadFault i s
  | adminFetchReturn i data => exact movesTo_adminFetchReturn i data s
  | adminFetchReadFault i => exact movesTo_adminFetchReadFault i s
  | bulkDataReadIssue => exact movesTo_bulkDataReadIssue s
  | bulkDataReturn i data => exact movesTo_bulkDataReturn i data s
  | bulkDataFault i => exact movesTo_bulkDataFault i s
  | nop r => exact movesTo_next (moves_takeKind s r _)
  | unknownKind r => exact movesTo_next (moves_takeKind s r _)
  | update r => exact movesTo_next (moves_takeKind s r _)
  | updateOperation r => exact movesTo_updateOperation r s
  | hold r => exact movesTo_next (moves_takeHold s r)
  | holdArrival r => exact movesTo_holdArrival r s (by simp [State.permits])
  | holdRetry r => exact movesTo_holdRetry r s (by simp [State.permits])
  | scanStep => exact movesTo_scanStep s
  | bulkRead r => exact movesTo_next (moves_takeKind s r _)
  | bulkReadCell r => exact movesTo_bulkReadCell r s
  | bulkWrite r => exact movesTo_next (moves_takeKind s r _)
  | bulkWriteCell r => exact movesTo_bulkWriteCell r s
  | cancel r => exact movesTo_next (moves_takeKind s r _)
  | fetchEventEntry r => exact movesTo_fetchEventEntry r s
  | drainEnd r => exact movesTo_drainEnd r s
  | completionRecordWrite l => exact movesTo_completionRecordWrite l s (.inl ⟨l, rfl⟩)
  | heldMessageRelease => exact movesTo_heldMessageRelease s
  | postedWriteDepart => exact movesTo_postedWriteDepart s
  | adminNop => exact movesTo_next (moves_takeAdmin s _ _ fun t x => moves_endAdmin t x _ _ _)
  | adminUnknownKind => exact movesTo_next (moves_takeAdmin s _ _ fun t x => moves_endAdmin t x _ _ _)
  | configureRequestRing => exact movesTo_next (moves_takeAdmin s _ _ moves_configureRing)
  | configureCompletionRing => exact movesTo_next (moves_takeAdmin s _ _ moves_configureCRing)
  | startRing => exact movesTo_next (moves_takeAdmin s _ _ moves_startRing)
  | stopRing => exact movesTo_next (moves_takeAdmin s _ _ moves_stopRing)
  | resetRing => exact movesTo_next (moves_takeAdmin s _ _ moves_resetRing)
  | resetCompletionRing => exact movesTo_next (moves_takeAdmin s _ _ fun t x => moves_resetCRing t x (.inr (.inl rfl)))
  | cancelHolds => exact movesTo_next (moves_takeAdmin s _ _ moves_cancelHoldsRequest)
  | clearCells => exact movesTo_next (moves_takeAdmin s _ _ moves_clearCellsRequest)
  | clearCellsCell => exact movesTo_clearCellsCell s
  | readStatus => exact movesTo_next (moves_takeAdmin s _ _ moves_readStatusRequest)
  | configurationSpaceWrite cfg => exact movesTo_configurationSpaceWrite cfg s

/-- A property that every move keeps is kept by every step. -/
theorem step_keeps_of_move {P : State → Prop} (hP : ∀ (p : Permits) (s t : State), Move p s t → P s → P t)
    {s t : State} (hs : P s) (h : step s = .next t) : P t := by
  unfold step at h
  split at h
  · cases h; exact hs
  · next c rest _ =>
    have hp : P { s with pending := rest } := hP ⟨fun _ => False, False⟩ s _ (.same {}) hs
    exact (exec_moves c _ t h).keeps (hP _) hp

/-- Settles O50: every step is a run of moves, and each move keeps the memberships. -/
theorem stepsKeepTheHoldTableMemberships : Obligations.StepsKeepTheHoldTableMemberships := fun _ _ hs h =>
  step_keeps_of_move (fun _ _ _ hm => hm.holdLaw) hs h

/-- Settles O51: of all moves arming alone raises an occupancy, below its quota. -/
theorem stepsKeepOccupancyWithinQuota : Obligations.StepsKeepOccupancyWithinQuota := fun _ _ hs h =>
  step_keeps_of_move (fun _ _ _ hm => hm.quotaLaw) hs h

end Sys2Proof.Machine
end

section
/-! PROOFS. The wake queue and the scan (R61 to R67): the cases of each move of the position, what a firing does, and
the law of the queue that every step keeps. -/

namespace Sys2Proof.Machine

-- One proof at a time: each further thread of the compile takes 1 GB of the check's fixed memory.
set_option Elab.async false

/-! ### Lists around an entry -/

section
variable {e f i : EntryId} {pre post l : List EntryId}

/-- The entry that stands behind `e` (R65). -/
theorem successor_split (h : e ∉ pre) : successor e (pre ++ e :: post) = post.head? := by
  induction pre with
  | nil => simp [successor]
  | cons x xs ih =>
    obtain ⟨hx, hxs⟩ : e ≠ x ∧ e ∉ xs := by simpa using h
    simp only [List.cons_append, successor, Ne.symm hx, if_false]
    exact ih hxs

theorem erase_split (h : e ∉ pre) : (pre ++ e :: post).erase e = pre ++ post := by
  rw [List.erase_append_right _ h, List.erase_cons_head]

theorem dropWhile_split (h : e ∉ pre) : (pre ++ e :: post).dropWhile (fun x => x ≠ e) = e :: post := by
  induction pre with
  | nil => simp
  | cons x xs ih =>
    obtain ⟨hx, hxs⟩ : e ≠ x ∧ e ∉ xs := by simpa using h
    rw [List.cons_append, List.dropWhile_cons_of_pos (by simpa using Ne.symm hx)]
    exact ih hxs

/-- What stands behind an entry of a list without repetitions is another entry of the list. -/
theorem mem_erase_of_successor (hl : l.Nodup) (he : e ∈ l) (h : successor e l = some f) : f ∈ l.erase e := by
  obtain ⟨pre, post, rfl, hpre⟩ := List.eq_append_cons_of_mem he
  rw [successor_split hpre] at h
  rw [erase_split hpre]
  exact List.mem_append_right _ (List.mem_of_mem_head? h)

/-- Another entry's leaving does not take an entry from at or behind a position (R66). -/
theorem mem_dropWhile_erase (hf : f ∈ l) (hi : i ∈ l.dropWhile (fun x => x ≠ f)) (hne : i ≠ e) (hfe : f ≠ e) :
    i ∈ (l.erase e).dropWhile (fun x => x ≠ f) := by
  obtain ⟨pre, post, rfl, hpre⟩ := List.eq_append_cons_of_mem hf
  rw [dropWhile_split hpre] at hi
  by_cases he : e ∈ pre
  · rw [List.erase_append_left _ he, dropWhile_split fun h => hpre (List.mem_of_mem_erase h)]
    exact hi
  · rw [List.erase_append_right _ he, List.erase_cons_tail (by simpa using hfe), dropWhile_split hpre]
    rcases List.mem_cons.1 hi with rfl | hi
    · exact List.mem_cons_self
    · exact List.mem_cons_of_mem _ ((List.mem_erase_of_ne hne).2 hi)

end

/-! ### Taking the head of the queue, and change reports -/

theorem takeHead_nil (s : State) (h : s.wakeQueue = []) :
    s.takeHead = { s with scan := .idle, wakeQueue := [] } := by
  simp only [State.takeHead, h, nextScan]

theorem takeHead_cons (s : State) {c : CellId} {e : EntryId} {rest : List CellId} (h : s.wakeQueue = c :: rest)
    (he : (s.watchList c).head? = some e) : s.takeHead = { s with scan := .scanning c e, wakeQueue := rest } := by
  obtain ⟨es, hw⟩ := List.head?_eq_some_iff.1 he
  simp only [State.takeHead, h, nextScan, hw]

/-- All that a change report can do: nothing, or a place at the tail of the queue, whose head an idle scan takes (R22,
R61, R63). -/
theorem reportIf_cases (s : State) (b : Bool) (c : CellId) :
    (s.reportIf b c = s ∧ (b = true → s.watchList c = [] ∨ c ∈ s.wakeQueue)) ∨
    (b = true ∧ s.watchList c ≠ [] ∧ c ∉ s.wakeQueue ∧
      ((s.scan ≠ .idle ∧ s.reportIf b c = { s with wakeQueue := s.wakeQueue ++ [c] }) ∨
        (s.scan = .idle ∧ s.reportIf b c = State.takeHead { s with wakeQueue := s.wakeQueue ++ [c] }))) := by
  cases b with
  | false => exact .inl ⟨rfl, nofun⟩
  | true =>
    change (s.reportChange c = s ∧ _) ∨ _
    by_cases hw : s.watchList c = []
    · exact .inl ⟨s.reportChange_unwatched c hw, fun _ => .inl hw⟩
    by_cases hq : c ∈ s.wakeQueue
    · exact .inl ⟨s.reportChange_queued c hq, fun _ => .inr hq⟩
    refine .inr ⟨rfl, hw, hq, ?_⟩
    change (_ ∧ s.reportChange c = _) ∨ (_ ∧ s.reportChange c = _)
    by_cases hs : s.scan = .idle
    · exact .inr ⟨hs, by simp [State.reportChange, hw, hq, hs]⟩
    · exact .inl ⟨hs, s.reportChange_scanning c hw hq hs⟩

/-- While a scan is in progress a report adds its watched cell to the queue and moves nothing else (R61, R70). -/
theorem reportIf_scanning (s : State) (b : Bool) (c : CellId) (hs : s.scan ≠ .idle) :
    s.reportIf b c = { s with wakeQueue :=
      if b = true ∧ s.watchList c ≠ [] ∧ c ∉ s.wakeQueue then s.wakeQueue ++ [c] else s.wakeQueue } := by
  rcases reportIf_cases s b c with ⟨h, hno⟩ | ⟨hb, hw, hq, ⟨-, h⟩ | ⟨hidle, -⟩⟩
  · rw [h, if_neg]
    rintro ⟨hb, hw, hq⟩
    exact (hno hb).elim hw hq
  · rw [h, if_pos ⟨hb, hw, hq⟩]
  · exact absurd hidle hs

/-! ### The firing of an entry (R64) -/

/-- The state once the entry at the position has fired, before the change report (R64). -/
def State.fired (s : State) (e : EntryId) (x : HoldEntry) (w : CellValue) : State :=
  let a := performAction s.mem x.act
  let s1 := State.dropEntry { s with mem := a.mem } e x.cond.cell
  if x.quiet then s1.freeEntry e
  else s1.endWith e x ⟨.ok, a.flags, actionValue x.act a.old w x.ret, s.now32⟩

section
variable (s : State) (e : EntryId) (x : HoldEntry) (w : CellValue)

theorem fireEntry_eq : s.fireEntry e x w =
    (s.fired e x w).reportIf (performAction s.mem x.act).flags.changed x.act.target := rfl

theorem fired_quiet (h : x.quiet = true) : s.fired e x w =
    (State.dropEntry { s with mem := (performAction s.mem x.act).mem } e x.cond.cell).freeEntry e := by
  simp [State.fired, h]

theorem fired_reported (h : x.quiet = false) : s.fired e x w =
    (State.dropEntry { s with mem := (performAction s.mem x.act).mem } e x.cond.cell).endWith e x
      ⟨.ok, (performAction s.mem x.act).flags,
        actionValue x.act (performAction s.mem x.act).old w x.ret, s.now32⟩ := by
  simp [State.fired, h]

@[simp] theorem fired_mem : (s.fired e x w).mem = (performAction s.mem x.act).mem := by
  cases h : x.quiet with
  | true => rw [fired_quiet s e x w h, freeEntry_mem]; rfl
  | false => rw [fired_reported s e x w h]; rfl

@[simp] theorem fired_scan : (s.fired e x w).scan = s.scan := by
  cases h : x.quiet with
  | true => rw [fired_quiet s e x w h, freeEntry_scan]; rfl
  | false => rw [fired_reported s e x w h]; rfl

@[simp] theorem fired_watch : (s.fired e x w).watch = (s.dropEntry e x.cond.cell).watch := by
  cases h : x.quiet with
  | true => rw [fired_quiet s e x w h, freeEntry_watch]; rfl
  | false => rw [fired_reported s e x w h]; rfl

@[simp] theorem fired_watchList (d : CellId) :
    (s.fired e x w).watchList d = (s.dropEntry e x.cond.cell).watchList d := by
  rw [State.watchList, fired_watch, State.watchList]

@[simp] theorem fired_wakeQueue : (s.fired e x w).wakeQueue = (s.dropEntry e x.cond.cell).wakeQueue := by
  cases h : x.quiet with
  | true => rw [fired_quiet s e x w h, freeEntry_wakeQueue]; rfl
  | false => rw [fired_reported s e x w h]; rfl

@[simp] theorem fired_deadlines : (s.fired e x w).deadlines = s.deadlines.erase e := by
  cases h : x.quiet with
  | true => rw [fired_quiet s e x w h, freeEntry_deadlines]; rfl
  | false => rw [fired_reported s e x w h]; rfl

/-- A firing makes its entry FREE or ENDING OK and leaves every other entry as it was (R64). -/
theorem entry_fired (i : EntryId) : (s.fired e x w).entry i = if e = i then
    (if x.quiet then none else some { x with state := .ending ⟨.ok, (performAction s.mem x.act).flags,
      actionValue x.act (performAction s.mem x.act).old w x.ret, s.now32⟩ })
    else s.entry i := by
  by_cases h : x.quiet = true
  · rw [fired_quiet s e x w h, State.entry_freeEntry, if_pos h]; rfl
  · rw [fired_reported s e x w (Bool.not_eq_true _ ▸ h), if_neg h]; exact State.entry_setEntry _ e i _

theorem entry_fireEntry (i : EntryId) : (s.fireEntry e x w).entry i = (s.fired e x w).entry i := by
  obtain ⟨_, _, h⟩ := (s.fired e x w).reportIf_frame (performAction s.mem x.act).flags.changed x.act.target
  rw [fireEntry_eq, h]
  rfl

end

theorem entry_moveOn (s : State) (c : CellId) (n : Option EntryId) (i : EntryId) :
    (s.moveOn c n).entry i = s.entry i := by
  obtain ⟨_, _, h⟩ := s.moveOn_frame c n
  rw [h]
  rfl

/-! ### The law of the wake queue (R61 to R63) -/

theorem State.WakeLaw.congr {s t : State} (h : s.WakeLaw) (hq : t.wakeQueue = s.wakeQueue) (hs : t.scan = s.scan)
    (hw : t.watch = s.watch) : t.WakeLaw := by
  have hl (c : CellId) : t.watchList c = s.watchList c := by rw [State.watchList, hw, State.watchList]
  exact ⟨hq ▸ h.queueNodup, fun c hc => by rw [hl]; exact h.queueWatched c (hq ▸ hc),
    fun hi => by rw [hq]; exact h.idleEmpty (hs ▸ hi), fun c e hi => by rw [hl]; exact h.position c e (hs ▸ hi)⟩

/-- The wake queue holds watched cells alone, each once (R61, R62). -/
structure State.QueueSound (s : State) : Prop where
  nodup : s.wakeQueue.Nodup
  watched : ∀ c ∈ s.wakeQueue, s.watchList c ≠ []

theorem State.WakeLaw.queueSound {s : State} (h : s.WakeLaw) : s.QueueSound := ⟨h.queueNodup, h.queueWatched⟩

theorem State.QueueSound.congr {s t : State} (h : s.QueueSound) (hq : t.wakeQueue = s.wakeQueue)
    (hw : t.watch = s.watch) : t.QueueSound := by
  have hl (c : CellId) : t.watchList c = s.watchList c := by rw [State.watchList, hw, State.watchList]
  exact ⟨hq ▸ h.nodup, fun c hc => by rw [hl]; exact h.watched c (hq ▸ hc)⟩

/-- From a sound queue the scan takes the very head, or becomes IDLE on an empty one (R63). -/
theorem State.QueueSound.takeHead {s : State} (h : s.QueueSound) :
    (s.wakeQueue = [] ∧ s.takeHead = { s with scan := .idle, wakeQueue := [] }) ∨
    ∃ c e rest, s.wakeQueue = c :: rest ∧ (s.watchList c).head? = some e ∧
      s.takeHead = { s with scan := .scanning c e, wakeQueue := rest } := by
  cases hq : s.wakeQueue with
  | nil => exact .inl ⟨rfl, takeHead_nil s hq⟩
  | cons c rest =>
    obtain ⟨e, es, hw⟩ := List.exists_cons_of_ne_nil (h.watched c (hq ▸ List.mem_cons_self))
    have hhead : (s.watchList c).head? = some e := by rw [hw]; rfl
    exact .inr ⟨c, e, rest, rfl, hhead, takeHead_cons s hq hhead⟩

theorem wakeLaw_takeHead {s : State} (h : s.QueueSound) : s.takeHead.WakeLaw := by
  obtain ⟨-, ht⟩ | ⟨c, e, rest, hq, hhead, ht⟩ := h.takeHead <;> rw [ht]
  · exact ⟨.nil, nofun, fun _ => rfl, nofun⟩
  · have hn := h.nodup
    rw [hq] at hn
    refine ⟨hn.of_cons, fun d hd => h.watched d (hq ▸ List.mem_cons_of_mem _ hd), nofun, fun d i hi => ?_⟩
    cases hi
    exact List.mem_of_mem_head? hhead

/-- The position moves to an entry of its list, or the scan goes on with the queue (R65, R67). -/
theorem wakeLaw_moveOn {s : State} (h : s.QueueSound) {c : CellId} {n : Option EntryId}
    (hn : ∀ f ∈ n, f ∈ s.watchList c) : (s.moveOn c n).WakeLaw := by
  cases n with
  | none => exact wakeLaw_takeHead h
  | some f =>
    refine ⟨h.nodup, h.watched, nofun, fun d i hi => ?_⟩
    cases hi
    exact hn f rfl

/-- A watched cell joins the tail of the queue (R61). -/
theorem State.QueueSound.join {s : State} (h : s.QueueSound) {c : CellId} (hw : s.watchList c ≠ [])
    (hq : c ∉ s.wakeQueue) : State.QueueSound { s with wakeQueue := s.wakeQueue ++ [c] } := by
  refine ⟨List.nodup_append_comm.1 (List.nodup_cons.2 ⟨hq, h.nodup⟩), fun d hd => ?_⟩
  rcases List.mem_append.1 hd with hd | hd
  · exact h.watched d hd
  · rw [List.mem_singleton.1 hd]; exact hw

theorem wakeLaw_reportIf {s : State} (h : s.WakeLaw) (b : Bool) (c : CellId) : (s.reportIf b c).WakeLaw := by
  rcases reportIf_cases s b c with ⟨hr, -⟩ | ⟨-, hw, hq, ⟨hs, hr⟩ | ⟨-, hr⟩⟩ <;> rw [hr]
  · exact h
  · have hj := h.queueSound.join hw hq
    exact ⟨hj.nodup, hj.watched, fun hi => absurd hi hs, h.position⟩
  · exact wakeLaw_takeHead (h.queueSound.join hw hq)

theorem queueSound_reportIf {s : State} (h : s.QueueSound) (b : Bool) (c : CellId) (hs : s.scan ≠ .idle) :
    (s.reportIf b c).QueueSound := by
  rcases reportIf_cases s b c with ⟨hr, -⟩ | ⟨-, hw, hq, ⟨-, hr⟩ | ⟨hidle, -⟩⟩
  · rw [hr]; exact h
  · rw [hr]; exact h.join hw hq
  · exact absurd hidle hs

/-- A cell left without watchers leaves the queue (R62). -/
theorem mem_wakeQueue_dropEntry {s : State} (h : s.wakeQueue.Nodup) (e : EntryId) (c d : CellId) :
    d ∈ (s.dropEntry e c).wakeQueue ↔ d ∈ s.wakeQueue ∧ ¬ (d = c ∧ (s.watchList c).erase e = []) := by
  change d ∈ (if ((s.watchList c).erase e).isEmpty then s.wakeQueue.erase c else s.wakeQueue) ↔ _
  split
  · next hl =>
    rw [h.mem_erase_iff]
    simp only [List.isEmpty_iff] at hl
    simp [hl, and_comm]
  · next hl =>
    simp only [List.isEmpty_iff] at hl
    simp [hl]

theorem queueSound_dropEntry {s : State} (h : s.QueueSound) (hw : sparseWf [] s.watch = true) (e : EntryId)
    (c : CellId) : (s.dropEntry e c).QueueSound := by
  constructor
  · change (if ((s.watchList c).erase e).isEmpty then s.wakeQueue.erase c else s.wakeQueue).Nodup
    split
    · exact h.nodup.erase c
    · exact h.nodup
  · intro d hd
    obtain ⟨hdq, hne⟩ := (mem_wakeQueue_dropEntry h.nodup e c d).1 hd
    rw [watchList_dropEntry s e c d hw]
    split
    · next hc => exact fun hnil => hne ⟨hc, hnil⟩
    · exact h.watched d hdq

/-- The scan's position is an ARMED entry that watches the cell under scan (R63). -/
theorem scan_watches {s : State} (hs : s.HoldLaw) (hk : s.WakeLaw) {c : CellId} {e : EntryId}
    (hscan : s.scan = .scanning c e) : ∃ x, s.entry e = some x ∧ x.isArmed = true ∧ x.cond.cell = c := by
  simpa using (armedWith_iff ..).1 ((hs.watchExact c e).1 (hk.position c e hscan))

/-- The entry at the position watches the cell under scan. -/
theorem cell_of_scan {s : State} (hs : s.HoldLaw) (hk : s.WakeLaw) {c : CellId} {e : EntryId} {x : HoldEntry}
    (hscan : s.scan = .scanning c e) (he : s.entry e = some x) : x.cond.cell = c := by
  obtain ⟨y, hy, -, hc⟩ := scan_watches hs hk hscan
  rw [he, Option.some.injEq] at hy
  exact hy ▸ hc

theorem queueSound_fired {s : State} (h : s.QueueSound) (hw : sparseWf [] s.watch = true) (e : EntryId)
    (x : HoldEntry) (w : CellValue) : (s.fired e x w).QueueSound :=
  (queueSound_dropEntry h hw e x.cond.cell).congr (fired_wakeQueue s e x w) (fired_watch s e x w)

theorem wakeLaw_claimEnd {s : State} (hs : s.HoldLaw) (hk : s.WakeLaw) (st : Status) (e : EntryId) :
    (s.claimEnd st e).WakeLaw := by
  rcases s.claimEnd_cases st e with hc | ⟨x, he, hx, hc⟩ <;> rw [hc]
  · exact hk
  have hsound := queueSound_dropEntry hk.queueSound hs.watchForm e x.cond.cell
  refine State.WakeLaw.congr (s := if s.scan = .scanning x.cond.cell e then _ else _) ?_ rfl rfl rfl
  split
  · next hscan =>
    refine wakeLaw_moveOn hsound fun f hf => ?_
    rw [watchList_dropEntry s e _ _ hs.watchForm, if_pos rfl]
    exact mem_erase_of_successor (hs.watchNodup _) (hk.position _ _ hscan) hf
  · next hscan =>
    refine ⟨hsound.nodup, hsound.watched, fun hidle => ?_, fun d p hp => ?_⟩
    · have hnil : s.wakeQueue = [] := hk.idleEmpty hidle
      rw [List.eq_nil_iff_forall_not_mem]
      intro d hd
      have := ((mem_wakeQueue_dropEntry hk.queueNodup e _ d).1 hd).1
      rw [hnil] at this
      exact List.not_mem_nil this
    · have hp' : s.scan = .scanning d p := hp
      have hmem := hk.position d p hp'
      rw [watchList_dropEntry s e _ _ hs.watchForm]
      split
      · next hd =>
        subst hd
        have hne : p ≠ e := by rintro rfl; exact hscan hp'
        exact (List.mem_erase_of_ne hne).2 hmem
      · exact hmem

theorem wakeLaw_fire {s : State} (hs : s.HoldLaw) (hk : s.WakeLaw) {c : CellId} {e : EntryId} {x : HoldEntry}
    (w : CellValue) (hscan : s.scan = .scanning c e) (he : s.entry e = some x) :
    ((s.fireEntry e x w).moveOn c (successor e (s.watchList c))).WakeLaw := by
  have hcell := cell_of_scan hs hk hscan he
  have hbusy : (s.fired e x w).scan ≠ .idle := by rw [fired_scan, hscan]; nofun
  have hsound := queueSound_reportIf (queueSound_fired hk.queueSound hs.watchForm e x w)
    (performAction s.mem x.act).flags.changed x.act.target hbusy
  refine wakeLaw_moveOn hsound fun f hf => ?_
  obtain ⟨_, _, hframe⟩ := (s.fired e x w).reportIf_frame (performAction s.mem x.act).flags.changed x.act.target
  rw [hframe]
  change f ∈ (s.fired e x w).watchList c
  rw [fired_watchList, watchList_dropEntry s e _ _ hs.watchForm, if_pos hcell.symm, hcell]
  exact mem_erase_of_successor (hs.watchNodup c) (hk.position c e hscan) hf

theorem wakeLaw_pass {s : State} (hs : s.HoldLaw) (hk : s.WakeLaw) {c : CellId} {e : EntryId}
    (hscan : s.scan = .scanning c e) : (s.moveOn c (successor e (s.watchList c))).WakeLaw :=
  wakeLaw_moveOn hk.queueSound fun _ hf =>
    List.mem_of_mem_erase (mem_erase_of_successor (hs.watchNodup c) (hk.position c e hscan) hf)

theorem watchList_arm (s : State) (hs : sparseWf [] s.watch = true) (r : RingId) (h : Header) (act : Action)
    (k : Condition) (d : Option Time) (e : EntryId) (c : CellId) : (s.arm r h act k d e).watchList c =
      if k.cell = c then s.watchList c ++ [e] else s.watchList c := by
  split
  · next hc => subst hc; exact watchList_setWatch_self _ _ _ hs
  · next hc => exact watchList_setWatch_ne _ _ hc

theorem wakeLaw_arm {s : State} (hs : s.HoldLaw) (hk : s.WakeLaw) (r : RingId) (h : Header) (act : Action)
    (k : Condition) (d : Option Time) (e : EntryId) : (s.arm r h act k d e).WakeLaw := by
  refine ⟨hk.queueNodup, fun c hc => ?_, hk.idleEmpty, fun c i hi => ?_⟩
  · rw [watchList_arm s hs.watchForm]
    split
    · simp
    · exact hk.queueWatched c hc
  · rw [watchList_arm s hs.watchForm]
    split
    · exact List.mem_append_left _ (hk.position c i hi)
    · exact hk.position c i hi

/-- A delivery moves neither the watch lists, nor the queue, nor the scan. -/
theorem deliver_scan_part (s : State) (l : ListId) (x : Source) : ((s.popList l).deliver x).watch = s.watch ∧
    ((s.popList l).deliver x).wakeQueue = s.wakeQueue ∧ ((s.popList l).deliver x).scan = s.scan ∧
    ((s.popList l).deliver x).mem = s.mem := by
  cases x with
  | entry e =>
    change ((s.popList l).freeEntry e).watch = _ ∧ ((s.popList l).freeEntry e).wakeQueue = _ ∧
      ((s.popList l).freeEntry e).scan = _ ∧ ((s.popList l).freeEntry e).mem = _
    rw [freeEntry_watch, freeEntry_wakeQueue, freeEntry_scan, freeEntry_mem]
    cases l <;> exact ⟨rfl, rfl, rfl, rfl⟩
  | ring r => cases l <;> exact ⟨rfl, rfl, rfl, rfl⟩
  | admin => cases l <;> exact ⟨rfl, rfl, rfl, rfl⟩

theorem Move.wakeLaw {p : Permits} {s t : State} (h : Move p s t) (hs : s.HoldLaw) (hk : s.WakeLaw) : t.WakeLaw := by
  cases h with
  | same h => exact h.wakeLaw hk
  | admin a x y h => exact hk.congr rfl rfl rfl
  | configure r x hw ho => exact hk.congr rfl rfl rfl
  | report r o hw => exact hk.congr rfl rfl rfl
  | claim st e h => exact wakeLaw_claimEnd hs hk st e
  | arm r h act k d e hfree hfalse hquota hp => exact wakeLaw_arm hs hk r h act k d e
  | store m b c v h => exact wakeLaw_reportIf (s := { s with mem := m }) (hk.congr rfl rfl rfl) b c
  | pass c e x hscan he hfalse => exact wakeLaw_pass hs hk hscan
  | fire c e x w hscan he hx => exact wakeLaw_fire hs hk w hscan he
  | deliver l x h hp =>
    obtain ⟨hw, hq, hsc, -⟩ := deliver_scan_part s l x
    exact hk.congr hq hsc hw
  | dropAdmin c h => exact hk.congr rfl rfl rfl
  | reset m hm hp => exact wakeLaw_reset.congr rfl rfl rfl

/-- Settles O52: every move keeps the law, the watch lists being those of R46. -/
theorem stepsKeepTheWakeQueue : Obligations.StepsKeepTheWakeQueue := fun _ _ hs hk h =>
  (step_keeps_of_move (P := fun s => s.HoldLaw ∧ s.WakeLaw)
    (fun _ _ _ hm ⟨hs, hk⟩ => ⟨hm.holdLaw hs, hm.wakeLaw hs hk⟩) ⟨hs, hk⟩ h).2

end Sys2Proof.Machine
end

section
/-! PROOFS. No wake-up is lost (R72): a change report reaches every ARMED entry whose condition it makes true, and no
move of the position and no entry's leaving passes such an entry by. -/

namespace Sys2Proof.Machine

-- One proof at a time: each further thread of the compile takes 1 GB of the check's fixed memory.
set_option Elab.async false

/-- The scan will come to entry `i` of cell `d`: the cell is queued, or under scan with the entry at or behind the
position (R72). -/
def State.Awaits (s : State) (d : CellId) (i : EntryId) : Prop := d ∈ s.wakeQueue ∨ s.scanAhead d i = true

theorem scanAhead_iff (s : State) (d : CellId) (i : EntryId) : s.scanAhead d i = true ↔
    ∃ f, s.scan = .scanning d f ∧ i ∈ (s.watchList d).dropWhile (fun x => x ≠ f) := by
  cases h : s.scan with
  | idle => simp [State.scanAhead, h]
  | scanning c f => by_cases hc : c = d <;> simp [State.scanAhead, h, hc]

theorem State.Awaits.congr {s t : State} {d : CellId} {i : EntryId} (h : s.Awaits d i)
    (hq : t.wakeQueue = s.wakeQueue) (hs : t.scan = s.scan) (hw : t.watch = s.watch) : t.Awaits d i := by
  have ha : t.scanAhead d i = s.scanAhead d i := by
    simp only [State.scanAhead, hs, State.watchList, hw]
  rw [State.Awaits, hq, ha]
  exact h

/-- An ARMED entry is on the watch list of its cell (R46). -/
theorem mem_watchList {s : State} (hs : s.HoldLaw) {i : EntryId} {x : HoldEntry} (hi : s.entry i = some x)
    (hx : x.isArmed = true) : i ∈ s.watchList x.cond.cell :=
  (hs.watchExact _ i).2 ((armedWith_iff ..).2 ⟨x, hi, hx, by simp⟩)

section
variable {s : State} {c d : CellId} {e i : EntryId}

/-! ### The moves of the position -/

/-- The scan takes a cell from its first watcher on (R63). -/
theorem awaits_takeHead (h : s.QueueSound) (hd : d ∈ s.wakeQueue) (hi : i ∈ s.watchList d) :
    s.takeHead.Awaits d i := by
  obtain ⟨hq, -⟩ | ⟨c, e, rest, hq, hhead, ht⟩ := h.takeHead
  · rw [hq] at hd; cases hd
  · rw [hq, List.mem_cons] at hd
    rw [ht]
    obtain rfl | hd := hd
    · obtain ⟨es, hl⟩ := List.head?_eq_some_iff.1 hhead
      refine .inr ((scanAhead_iff ..).2 ⟨e, rfl, ?_⟩)
      change i ∈ (s.watchList d).dropWhile _
      rw [hl] at hi ⊢
      exact (dropWhile_split (pre := []) List.not_mem_nil).symm ▸ hi
    · exact .inl hd

/-- The position moves between two parts of its list, and stays ahead of the second (R65). -/
theorem awaits_moveOn {pre post : List EntryId} (h : s.QueueSound) (hl : s.watchList c = pre ++ post)
    (hn : (pre ++ post).Nodup) (hi : i ∈ s.watchList d) (hd : d ∈ s.wakeQueue ∨ d = c ∧ i ∈ post) :
    (s.moveOn c post.head?).Awaits d i := by
  cases post with
  | nil => exact awaits_takeHead h (hd.resolve_right fun ⟨_, h⟩ => List.not_mem_nil h) hi
  | cons f post =>
    refine hd.imp id fun ⟨hdc, hpost⟩ => (scanAhead_iff ..).2 ⟨f, by rw [hdc]; rfl, ?_⟩
    have hf : f ∉ pre := fun hf => (List.nodup_append.1 hn).2.2 f hf f List.mem_cons_self rfl
    change i ∈ (s.watchList d).dropWhile _
    rw [hdc, hl, dropWhile_split hf]
    exact hpost

/-- A report keeps what the scan will come to, and adds the watchers of its cell (R22, R61). -/
theorem awaits_reportIf (h : s.QueueSound) {b : Bool} (hi : i ∈ s.watchList d)
    (hd : s.Awaits d i ∨ b = true ∧ d = c) : (s.reportIf b c).Awaits d i := by
  rcases reportIf_cases s b c with ⟨hr, hno⟩ | ⟨-, hw, hq, ⟨-, hr⟩ | ⟨hidle, hr⟩⟩ <;> rw [hr]
  · obtain hd | ⟨hb, rfl⟩ := hd
    · exact hd
    · exact .inl ((hno hb).resolve_left (List.ne_nil_of_mem hi))
  · obtain (hd | hd) | ⟨-, rfl⟩ := hd
    · exact .inl (List.mem_append_left _ hd)
    · exact .inr hd
    · exact .inl (List.mem_append_right _ List.mem_cons_self)
  · refine awaits_takeHead (h.join hw hq) ?_ hi
    obtain (hd | hd) | ⟨-, rfl⟩ := hd
    · exact List.mem_append_left _ hd
    · simp [State.scanAhead, hidle] at hd
    · exact List.mem_append_right _ List.mem_cons_self

/-- A queued cell stays queued under a report while a scan is in progress. -/
theorem mem_wakeQueue_reportIf (hs : s.scan ≠ .idle) {b : Bool} (hi : s.watchList d ≠ [])
    (hd : d ∈ s.wakeQueue ∨ b = true ∧ d = c) : d ∈ (s.reportIf b c).wakeQueue := by
  rcases reportIf_cases s b c with ⟨hr, hno⟩ | ⟨-, hw, hq, ⟨-, hr⟩ | ⟨hidle, -⟩⟩
  · rw [hr]
    obtain hd | ⟨hb, rfl⟩ := hd
    · exact hd
    · exact (hno hb).resolve_left hi
  · rw [hr]
    obtain hd | ⟨-, rfl⟩ := hd
    · exact List.mem_append_left _ hd
    · exact List.mem_append_right _ List.mem_cons_self
  · exact absurd hidle hs

/-- An entry's leaving takes no other entry's cell from the queue (R62). -/
theorem mem_wakeQueue_drop (hk : s.WakeLaw) (hne : i ≠ e) (hi : i ∈ s.watchList d)
    (hd : d ∈ s.wakeQueue) : d ∈ (s.dropEntry e c).wakeQueue := by
  refine (mem_wakeQueue_dropEntry hk.queueNodup e c d).2 ⟨hd, ?_⟩
  rintro ⟨rfl, hnil⟩
  exact List.ne_nil_of_mem ((List.mem_erase_of_ne hne).2 hi) hnil

theorem mem_watchList_drop (hs : s.HoldLaw) (hne : i ≠ e) (hi : i ∈ s.watchList d) :
    i ∈ (s.dropEntry e c).watchList d := by
  rw [watchList_dropEntry s e c d hs.watchForm]
  split
  · next h => subst h; exact (List.mem_erase_of_ne hne).2 hi
  · exact hi

/-- The list of the position's cell around the position: the entry behind it is the head of what follows. -/
theorem scan_split (hs : s.HoldLaw) (hk : s.WakeLaw) (hscan : s.scan = .scanning c e) :
    ∃ pre post, s.watchList c = pre ++ e :: post ∧ e ∉ pre ∧ successor e (s.watchList c) = post.head? ∧
      (pre ++ post).Nodup ∧ ∀ d i, i ≠ e → s.Awaits d i → d ∈ s.wakeQueue ∨ d = c ∧ i ∈ post := by
  obtain ⟨pre, post, hl, hpre⟩ := List.eq_append_cons_of_mem (hk.position c e hscan)
  have hn := hs.watchNodup c
  refine ⟨pre, post, hl, hpre, by rw [hl, successor_split hpre], ?_, fun d i hne hd => hd.imp id fun hd => ?_⟩
  · rw [hl] at hn
    exact hn.sublist ((List.Sublist.refl pre).append (List.sublist_cons_self e post))
  · obtain ⟨f, hf, hi⟩ := (scanAhead_iff ..).1 hd
    rw [hscan] at hf
    cases hf
    rw [hl, dropWhile_split hpre, List.mem_cons] at hi
    exact ⟨rfl, hi.resolve_left hne⟩

/-! ### The moves -/

/-- A claim passes no other entry by (R66). -/
theorem awaits_claimEnd (hs : s.HoldLaw) (hk : s.WakeLaw) (st : Status) (hne : i ≠ e) (hi : i ∈ s.watchList d)
    (hd : s.Awaits d i) : (s.claimEnd st e).Awaits d i := by
  rcases s.claimEnd_cases st e with hc | ⟨x, he, hx, hc⟩ <;> rw [hc]
  · exact hd
  have hsound := queueSound_dropEntry hk.queueSound hs.watchForm e x.cond.cell
  have hi' := mem_watchList_drop (c := x.cond.cell) hs hne hi
  refine State.Awaits.congr (s := if s.scan = .scanning x.cond.cell e then _ else _) ?_ rfl rfl rfl
  split
  · next hscan =>
    obtain ⟨pre, post, hl, hpre, hsucc, hn, hawait⟩ := scan_split hs hk hscan
    have hl' : (s.dropEntry e x.cond.cell).watchList x.cond.cell = pre ++ post := by
      rw [watchList_dropEntry s e _ _ hs.watchForm, if_pos rfl, hl, erase_split hpre]
    rw [hsucc]
    exact awaits_moveOn hsound hl' hn hi' ((hawait d i hne hd).imp (mem_wakeQueue_drop hk hne hi) id)
  · next hscan =>
    refine hd.imp (mem_wakeQueue_drop hk hne hi) fun hd => ?_
    obtain ⟨f, hf, hif⟩ := (scanAhead_iff ..).1 hd
    refine (scanAhead_iff ..).2 ⟨f, hf, ?_⟩
    rw [watchList_dropEntry s e _ _ hs.watchForm]
    split
    · next h =>
      subst h
      exact mem_dropWhile_erase (hk.position _ f hf) hif hne fun hfe => hscan (hfe ▸ hf)
    · exact hif

end

/-- The loss of a wake-up depends on the cells, the queue, the scan, the watch lists and the entries alone. -/
theorem State.NoLostWakeup.congr {s t : State} (h : s.NoLostWakeup) (hm : t.mem = s.mem)
    (hq : t.wakeQueue = s.wakeQueue) (hs : t.scan = s.scan) (hw : t.watch = s.watch)
    (he : ∀ e x, t.entry e = some x → s.entry e = some x) : t.NoLostWakeup := by
  intro e x hx harmed hholds
  rw [hm] at hholds
  exact State.Awaits.congr (h e x (he e x hx) harmed hholds) hq hs hw

/-! ### What a store and an action change -/

/-- A cell that a store leaves without a change report holds what it held (R13, R22). -/
theorem readCell_storeCell (m : List Host.Cell) (hm : Memory.wf m = true) (c d : CellId) (v : CellValue) :
    readCell (storeCell m c v).1 d = readCell m d ∨ (storeCell m c v).2 = true ∧ d = c := by
  rw [storeCell_eq m c v hm]
  by_cases hd : d = c
  · subst hd
    rw [readCell_writeCell_self m d v hm, decide_eq_true_eq, eq_comm]
    tauto
  · have hne : c.val ≠ d.val := fun h => hd (Fin.ext h.symm)
    rw [readCell_writeCell_ne m v hm hne]
    exact .inl rfl

/-- A cell that an action leaves without CHANGED holds what it held (R13, R15). -/
theorem readCell_performAction (m : List Host.Cell) (hm : Memory.wf m = true) (act : Action) (d : CellId) :
    readCell (performAction m act).mem d = readCell m d ∨
      (performAction m act).flags.changed = true ∧ d = act.target := by
  by_cases hd : d = act.target
  · subst hd
    rw [performAction_changed m act hm, decide_eq_true_eq]
    tauto
  · refine .inl (readCell_congr _ _ _ fun k hk => readByte_performAction m act hm _ ?_)
    rw [show (16 * d.val + k) / 16 = d.val by omega]
    exact fun h => hd (Fin.ext h)

section
variable {s : State} (hs : s.HoldLaw) (hk : s.WakeLaw) (hl : s.NoLostWakeup)
include hs hk hl

theorem noLostWakeup_claimEnd (st : Status) (e : EntryId) : (s.claimEnd st e).NoLostWakeup := by
  intro i x hi hx hholds
  have hmem : (s.claimEnd st e).mem = s.mem := by
    obtain ⟨_, _, _, _, _, _, h⟩ := s.claimEnd_frame st e
    rw [h]
  rw [hmem] at hholds
  rw [s.entry_claimEnd st e i] at hi
  split at hi
  · next he =>
    subst he
    rcases s.claimEnd_cases st e with hc | ⟨y, hy, hya, -⟩
    · obtain ⟨y, hy, rfl⟩ := Option.map_eq_some_iff.1 hi
      split at hx
      · cases hx
      · next hya =>
        rw [if_neg hya] at hholds ⊢
        exact absurd hx hya
    · rw [hy, Option.map_some, if_pos hya, Option.some.injEq] at hi
      subst hi
      cases hx
  · next hne =>
    exact awaits_claimEnd hs hk st (Ne.symm hne) (mem_watchList hs hi hx) (hl i x hi hx hholds)

/-- The position leaves an entry behind once its condition has been seen false (R64, R65). -/
theorem noLostWakeup_pass {c : CellId} {e : EntryId} {x : HoldEntry} (hscan : s.scan = .scanning c e)
    (he : s.entry e = some x) (hfalse : x.cond.holds (readCell s.mem c) = false) :
    (s.moveOn c (successor e (s.watchList c))).NoLostWakeup := by
  obtain ⟨pre, post, hlist, -, hsucc, -, hawait⟩ := scan_split hs hk hscan
  have hn := hs.watchNodup c
  rw [hlist, List.append_cons] at hn
  intro i y hi hy hholds
  have hmem : (s.moveOn c (successor e (s.watchList c))).mem = s.mem := by
    obtain ⟨_, _, h⟩ := s.moveOn_frame c (successor e (s.watchList c))
    rw [h]
  rw [entry_moveOn] at hi
  rw [hmem] at hholds
  have hne : i ≠ e := by
    rintro rfl
    rw [he, Option.some.injEq] at hi
    subst hi
    rw [cell_of_scan hs hk hscan he, hfalse] at hholds
    cases hholds
  rw [hsucc]
  exact awaits_moveOn hk.queueSound (hlist.trans (List.append_cons ..)) hn (mem_watchList hs hi hy)
    (hawait _ i hne (hl i y hi hy hholds))

/-- A firing's own change is reported before the position moves on (R64, R70). -/
theorem noLostWakeup_fire (hm : Memory.wf s.mem = true) {c : CellId} {e : EntryId} {x : HoldEntry} (w : CellValue)
    (hscan : s.scan = .scanning c e) (he : s.entry e = some x) :
    ((s.fireEntry e x w).moveOn c (successor e (s.watchList c))).NoLostWakeup := by
  obtain ⟨pre, post, hlist, hpre, hsucc, hn, hawait⟩ := scan_split hs hk hscan
  have hcell := cell_of_scan hs hk hscan he
  have hbusy : (s.fired e x w).scan ≠ .idle := by rw [fired_scan, hscan]; nofun
  have hsound := queueSound_reportIf (queueSound_fired hk.queueSound hs.watchForm e x w)
    (performAction s.mem x.act).flags.changed x.act.target hbusy
  obtain ⟨n, q, hreport⟩ := (s.fired e x w).reportIf_frame (performAction s.mem x.act).flags.changed x.act.target
  have hwatch (d : CellId) : (s.fireEntry e x w).watchList d = (s.dropEntry e c).watchList d := by
    rw [← hcell, ← fired_watchList s e x w, fireEntry_eq, hreport]
    rfl
  have hlist' : (s.fireEntry e x w).watchList c = pre ++ post := by
    rw [hwatch, watchList_dropEntry s e c c hs.watchForm, if_pos rfl, hlist, erase_split hpre]
  intro i y hi hy hholds
  have hmem : ((s.fireEntry e x w).moveOn c (successor e (s.watchList c))).mem = (performAction s.mem x.act).mem := by
    obtain ⟨_, _, h⟩ := (s.fireEntry e x w).moveOn_frame c (successor e (s.watchList c))
    rw [h, fireEntry_eq, hreport]
    exact fired_mem s e x w
  rw [entry_moveOn, entry_fireEntry, entry_fired] at hi
  have hne : i ≠ e := by
    rintro rfl
    rw [if_pos rfl] at hi
    split at hi
    · cases hi
    · rw [Option.some.injEq] at hi
      subst hi
      cases hy
  rw [if_neg hne.symm] at hi
  have hiw := mem_watchList hs hi hy
  have hiw' : i ∈ (s.dropEntry e c).watchList y.cond.cell := mem_watchList_drop hs hne hiw
  have hcases : y.cond.cell ∈ (s.fireEntry e x w).wakeQueue ∨ y.cond.cell = c ∧ i ∈ post := by
    have hqueue (h : y.cond.cell ∈ (s.fired e x w).wakeQueue ∨
        (performAction s.mem x.act).flags.changed = true ∧ y.cond.cell = x.act.target) :
        y.cond.cell ∈ (s.fireEntry e x w).wakeQueue :=
      mem_wakeQueue_reportIf hbusy (by rw [fired_watchList, hcell]; exact List.ne_nil_of_mem hiw') h
    rw [hmem] at hholds
    rcases readCell_performAction s.mem hm x.act y.cond.cell with heq | hchanged
    · rw [heq] at hholds
      refine (hawait _ i hne (hl i y hi hy hholds)).imp (fun hq => hqueue (.inl ?_)) id
      rw [fired_wakeQueue]
      exact mem_wakeQueue_drop hk hne hiw hq
    · exact .inl (hqueue (.inr hchanged))
  rw [hsucc]
  exact awaits_moveOn hsound hlist' hn (by rw [hwatch]; exact hiw') hcases

/-- An entry is armed with a false condition, behind every watcher of its cell (R47). -/
theorem noLostWakeup_arm (r : RingId) (h : Header) (act : Action) (k : Condition) (d : Option Time) {e : EntryId}
    (hfalse : k.holds (readCell s.mem k.cell) = false) : (s.arm r h act k d e).NoLostWakeup := by
  intro i x hi hx hholds
  have hself : (s.arm r h act k d e).entry e = some (s.newEntry r h act k d) := by simp [State.arm]
  by_cases hne : i = e
  · subst hne
    rw [hself, Option.some.injEq] at hi
    subst hi
    exact absurd (hfalse.symm.trans hholds) Bool.false_ne_true
  have hi' : s.entry i = some x := by
    simp only [State.arm, State.setOcc_entry, State.setWatch_entry] at hi
    rwa [State.entry_setEntry_ne _ _ (Ne.symm hne)] at hi
  refine (hl i x hi' hx hholds).imp id fun ha => ?_
  obtain ⟨f, hf, hif⟩ := (scanAhead_iff ..).1 ha
  refine (scanAhead_iff ..).2 ⟨f, hf, ?_⟩
  rw [watchList_arm s hs.watchForm]
  split
  · obtain ⟨pre, post, hlist, hpre⟩ := List.eq_append_cons_of_mem (hk.position _ f hf)
    rw [hlist, dropWhile_split hpre] at hif
    rw [hlist, List.append_assoc, List.cons_append, dropWhile_split hpre]
    exact List.mem_append_left [e] hif
  · exact hif

/-- Every change of a watched cell is reported (R22, R61). -/
theorem noLostWakeup_store (hm : Memory.wf s.mem = true) (c : CellId) (v : CellValue) :
    (State.reportIf { s with mem := (storeCell s.mem c v).1 } (storeCell s.mem c v).2 c).NoLostWakeup := by
  intro i x hi hx hholds
  obtain ⟨_, _, hframe⟩ := State.reportIf_frame { s with mem := (storeCell s.mem c v).1 } (storeCell s.mem c v).2 c
  have hi' : s.entry i = some x := by rw [hframe] at hi; exact hi
  have hmem : (State.reportIf { s with mem := (storeCell s.mem c v).1 } (storeCell s.mem c v).2 c).mem =
      (storeCell s.mem c v).1 := by rw [hframe]
  rw [hmem] at hholds
  refine awaits_reportIf (hk.queueSound.congr (t := { s with mem := (storeCell s.mem c v).1 }) rfl rfl)
    (mem_watchList hs hi' hx) ?_
  rcases readCell_storeCell s.mem hm c x.cond.cell v with heq | hchanged
  · rw [heq] at hholds
    exact .inl (State.Awaits.congr (hl i x hi' hx hholds) rfl rfl rfl)
  · exact .inr hchanged

end

/-- A delivery frees an entry at most. -/
theorem entry_deliver (s : State) (l : ListId) (x : Source) (i : EntryId) :
    ((s.popList l).deliver x).entry i = if x = .entry i then none else s.entry i := by
  have hpop (i : EntryId) : (s.popList l).entry i = s.entry i := by cases l <;> rfl
  cases x with
  | entry e =>
    change ((s.popList l).freeEntry e).entry i = _
    rw [State.entry_freeEntry, hpop]
    simp
  | ring r => exact hpop i
  | admin => exact hpop i

/-- What a move needs to lose no wake-up, and keeps. -/
structure State.ScanSound (s : State) : Prop where
  cells : Memory.wf s.mem = true
  holds : s.HoldLaw
  wakes : s.WakeLaw
  noLost : s.NoLostWakeup

theorem Move.cells {p : Permits} {s t : State} (h : Move p s t) (hm : Memory.wf s.mem = true) :
    Memory.wf t.mem = true := by
  cases h with
  | same h => rw [h.mem]; exact hm
  | admin a x y h => exact hm
  | configure r x hw ho => exact hm
  | report r o hw => exact hm
  | claim st e h =>
    obtain ⟨_, _, _, _, _, _, h⟩ := s.claimEnd_frame st e
    rw [h]
    exact hm
  | arm r h act k d e hfree hfalse hquota hp => exact hm
  | store m b c v h =>
    obtain ⟨_, _, hframe⟩ := State.reportIf_frame { s with mem := m } b c
    rw [hframe]
    have := wf_storeCell s.mem c v hm
    rwa [← h] at this
  | pass c e x hscan he hfalse =>
    obtain ⟨_, _, h⟩ := s.moveOn_frame c (successor e (s.watchList c))
    rw [h]
    exact hm
  | fire c e x w hscan he hx =>
    obtain ⟨_, _, h⟩ := (s.fireEntry e x w).moveOn_frame c (successor e (s.watchList c))
    obtain ⟨_, _, hr⟩ := (s.fired e x w).reportIf_frame (performAction s.mem x.act).flags.changed x.act.target
    rw [h, fireEntry_eq, hr]
    change Memory.wf (s.fired e x w).mem = true
    rw [fired_mem]
    exact wf_performAction _ _ hm
  | deliver l x h hp =>
    obtain ⟨-, -, -, hmem⟩ := deliver_scan_part s l x
    rw [hmem]
    exact hm
  | dropAdmin c h => exact hm
  | reset m hw hp =>
    obtain rfl | rfl := hw
    · rfl
    · exact hm

theorem Move.noLostWakeup {p : Permits} {s t : State} (h : Move p s t) (hs : s.ScanSound) : t.NoLostWakeup := by
  obtain ⟨hm, hs, hk, hl⟩ := hs
  cases h with
  | same h => exact hl.congr h.mem h.wakeQueue h.scan h.watch fun e x he => (h.entry e) ▸ he
  | admin a x y h => exact hl.congr rfl rfl rfl rfl fun _ _ => id
  | configure r x hw ho => exact hl.congr rfl rfl rfl rfl fun _ _ => id
  | report r o hw => exact hl.congr rfl rfl rfl rfl fun _ _ => id
  | claim st e h => exact noLostWakeup_claimEnd hs hk hl st e
  | arm r h act k d e hfree hfalse hquota hp => exact noLostWakeup_arm hs hk hl r h act k d hfalse
  | store m b c v h =>
    obtain ⟨rfl, rfl⟩ := Prod.mk.inj h
    exact noLostWakeup_store hs hk hl hm c v
  | pass c e x hscan he hfalse => exact noLostWakeup_pass hs hk hl hscan he hfalse
  | fire c e x w hscan he hx => exact noLostWakeup_fire hs hk hl hm w hscan he
  | deliver l x h hp =>
    obtain ⟨hw, hq, hsc, hmem⟩ := deliver_scan_part s l x
    refine hl.congr hmem hq hsc hw fun i y hi => ?_
    rw [entry_deliver] at hi
    split at hi
    · cases hi
    · exact hi
  | dropAdmin c h => exact hl.congr rfl rfl rfl rfl fun _ _ => id
  | reset m hw hp => exact fun i x hi => nomatch (entry_reset i).symm.trans hi

theorem Move.scanSound {p : Permits} {s t : State} (h : Move p s t) (hs : s.ScanSound) : t.ScanSound :=
  ⟨h.cells hs.cells, h.holdLaw hs.holds, h.wakeLaw hs.holds hs.wakes, h.noLostWakeup hs⟩

/-- Settles O53: no move passes by an entry whose condition holds. -/
theorem noWakeUpIsLost : Obligations.NoWakeUpIsLost := fun _ _ hm hs hk hl h =>
  (step_keeps_of_move (fun _ _ _ => Move.scanSound) ⟨hm.cells, hs, hk, hl⟩ h).noLost

end Sys2Proof.Machine
end

section
/-! PROOFS. What the moves do to one entry (R53, R54, R76): an outcome once decided is fixed until its source is freed,
and no entry ends TIMEOUT that the command may not end so. -/

namespace Sys2Proof.Machine

-- One proof at a time: each further thread of the compile takes 1 GB of the check's fixed memory.
set_option Elab.async false

/-- What a move does to entry `e`. -/
inductive EntryMove (p : Permits) (e : EntryId) (s t : State) : Prop
  | kept (h : t.entry e = s.entry e)
  | armed (x : HoldEntry) (h : s.entry e = none) (ht : t.entry e = some x) (hx : x.isArmed = true) (hp : ¬ p.free)
  | fired (x : HoldEntry) (h : s.entry e = some x) (hx : x.isArmed = true) (ht : t.entry e = none)
  | ended (x : HoldEntry) (res : HoldResult) (h : s.entry e = some x) (hx : x.isArmed = true)
      (ht : t.entry e = some { x with state := .ending res }) (hres : res.status = .timeout → p.timeout e)
  | freed (ht : t.entry e = none) (hp : p.free)

/-- Every move frees, arms or ends an entry or leaves it as it was (R47, R49, R55, R64). -/
theorem Move.entryMove {p : Permits} {s t : State} (h : Move p s t) (e : EntryId) : EntryMove p e s t := by
  cases h with
  | same h => exact .kept (h.entry e)
  | admin a x y h => exact .kept rfl
  | configure r x hw ho => exact .kept rfl
  | report r o hw => exact .kept rfl
  | claim st i h =>
    have hc := s.entry_claimEnd st i e
    split at hc
    · next hi =>
      subst hi
      cases hx : s.entry i with
      | none => exact .kept (by rw [hc, hx]; rfl)
      | some x =>
        rw [hx, Option.map_some] at hc
        split at hc
        · next ha => exact .ended x _ hx ha hc h
        · exact .kept (hc.trans hx.symm)
    · exact .kept hc
  | arm r h act k d i hfree hfalse hquota hp =>
    by_cases hi : i = e
    · subst hi
      exact .armed (s.newEntry r h act k d) hfree (by simp [State.arm]) rfl hp
    · refine .kept ?_
      simp only [State.arm, State.setOcc_entry, State.setWatch_entry]
      exact State.entry_setEntry_ne _ _ hi
  | store m b c v h =>
    obtain ⟨_, _, hframe⟩ := State.reportIf_frame { s with mem := m } b c
    exact .kept (by rw [hframe]; rfl)
  | pass c i x hscan he hfalse => exact .kept (entry_moveOn ..)
  | fire c i x w hscan hi hx =>
    have hf := entry_fired s i x w e
    rw [← entry_fireEntry, ← entry_moveOn _ c (successor i (s.watchList c))] at hf
    split at hf
    · next hie =>
      subst hie
      split at hf
      · exact .fired x hi hx hf
      · exact .ended x _ hi hx hf nofun
    · exact .kept hf
  | deliver l x h hp =>
    have hd := entry_deliver s l x e
    split at hd
    · exact .freed hd hp
    · exact .kept hd
  | dropAdmin c h => exact .kept rfl
  | reset m hm hp => exact .freed (entry_reset e) hp

/-- An outcome stays what it is until its entry is freed (R53, R55). -/
theorem Move.keeps_outcome {p : Permits} {s t : State} (h : Move p s t) {e : EntryId} {z : HoldEntry}
    (hz : z.isArmed = false) (hs : s.entry e = some z ∨ s.entry e = none ∧ p.free) :
    t.entry e = some z ∨ t.entry e = none ∧ p.free := by
  have hnot (x : HoldEntry) (hx : s.entry e = some x) : x.isArmed = false := by
    obtain hs | ⟨hs, -⟩ := hs <;> rw [hs] at hx <;> cases hx
    exact hz
  cases h.entryMove e with
  | kept h => rwa [h]
  | armed x h ht hx hp =>
    obtain hs | ⟨-, hp'⟩ := hs
    · rw [hs] at h; cases h
    · exact absurd hp' hp
  | fired x h hx ht => exact absurd hx (Bool.not_eq_true _ ▸ hnot x h)
  | ended x res h hx ht hres => exact absurd hx (Bool.not_eq_true _ ▸ hnot x h)
  | freed ht hp => exact .inr ⟨ht, hp⟩

/-- If entry `e` has ended TIMEOUT, the command may end it so. -/
def State.TimeoutPermitted (p : Permits) (e : EntryId) (s : State) : Prop :=
  ∀ z res, s.entry e = some z → z.state = .ending res → res.status = .timeout → p.timeout e

theorem Move.keeps_timeoutPermitted {p : Permits} {s t : State} (h : Move p s t) {e : EntryId}
    (hs : s.TimeoutPermitted p e) : t.TimeoutPermitted p e := by
  intro z res hz hres
  cases h.entryMove e with
  | kept h => exact hs z res (h ▸ hz) hres
  | armed x h ht hx hp =>
    rw [ht, Option.some.injEq] at hz
    subst hz
    simp [HoldEntry.isArmed, hres] at hx
  | fired x h hx ht => rw [ht] at hz; cases hz
  | ended x res' h hx ht hp =>
    rw [ht, Option.some.injEq] at hz
    subst hz
    cases hres
    exact hp
  | freed ht hp => rw [ht] at hz; cases hz

/-- Settles O60: no move of a command but those of R55 frees an ENDING entry, and EXPIRY alone ends an entry TIMEOUT,
at its deadline. -/
theorem outcomesAreFixedAndTimeoutsNeverEarly : Obligations.OutcomesAreFixedAndTimeoutsNeverEarly := by
  intro s t c e z hz h
  have hmoves := exec_moves c s t h
  constructor
  · intro res hres
    have harmed : z.isArmed = false := by simp [HoldEntry.isArmed, hres]
    exact hmoves.keeps (P := fun t => t.entry e = some z ∨ t.entry e = none ∧ (s.permits c).free)
      (fun _ _ hm => hm.keeps_outcome harmed) (.inl hz)
  · intro harmed z' res hz' hres hst
    have hstart : s.TimeoutPermitted (s.permits c) e := by
      intro y r hy hr
      rw [hz, Option.some.injEq] at hy
      subst hy
      simp [HoldEntry.isArmed, hr] at harmed
    obtain ⟨-, hrun, x, d, hx, hd, hexp⟩ :=
      hmoves.keeps (fun _ _ hm => hm.keeps_timeoutPermitted) hstart z' res hz' hres hst
    rw [hz, Option.some.injEq] at hx
    subst hx
    exact ⟨hrun, d, hd, (expired_iff d s.timeBase).1 hexp⟩

end Sys2Proof.Machine
end

section
/-! PROOFS. HALTED (R73, R82, R117, R149, R159, R163): no grant is made, no record is taken or written, no return is
taken, and no timer runs. -/

namespace Sys2Proof.Machine

-- One proof at a time: each further thread of the compile takes 1 GB of the check's fixed memory.
set_option Elab.async false

/-- From `s` to `t` the clock, the reads, the registers FAULT and the snapshot, configuration space and the posted
writes alone have moved. -/
def Frozen (s t : State) : Prop :=
  { t with timeBase := s.timeBase, timeSnapshot := s.timeSnapshot, fault := s.fault, cfg := s.cfg,
           places := s.places, postq := s.postq, held := s.held, replies := s.replies, link := s.link } = s

theorem Frozen.refl (s : State) : Frozen s s := rfl

theorem Frozen.of_eq {s t : State} (h : t = s) : Frozen s t := h ▸ .refl s

theorem Frozen.ite {c : Prop} [Decidable c] {s t u : State} (ht : Frozen s t) (hu : Frozen s u) :
    Frozen s (if c then t else u) := by
  split
  · exact ht
  · exact hu

/-- Every next state of an outcome leaves what HALTED freezes as it was. -/
def FrozenTo (s : State) (o : Host.Outcome State Fault Refusal) : Prop := ∀ t, o = .next t → Frozen s t

theorem frozenTo_next {s t : State} (h : Frozen s t) : FrozenTo s (.next t) := fun _ e => by cases e; exact h

theorem frozenTo_same (s : State) : FrozenTo s (.next s) := frozenTo_next (.refl s)

/-! ### Operations on the frozen part's surroundings -/

theorem frozen_setFault (s : State) (b : FaultBit) : Frozen s (s.setFault b) := by
  obtain ⟨_, _, _, _, _, h, -⟩ := s.setFault_frame b
  rw [h]
  rfl

theorem frozen_access (s : State) {f : State → State} (h : Frozen s (f s)) : Frozen s (s.access f) := .ite h (.refl s)

/-- A read's reply and the snapshot (R179, R181). -/
theorem frozen_readRegister (s : State) (offset : Nat) (bytes : List Byte) :
    Frozen s ((s.takeSnapshot offset).sendReply bytes) := by
  unfold State.sendReply State.takeSnapshot
  by_cases h : offset = 0x20
  · rw [if_pos h]; exact .ite rfl rfl
  · rw [if_neg h]; exact .ite rfl rfl

theorem frozen_configure (s : State) (cfg : ConfigSpace) : Frozen s (State.dropMessages
    (if cfg.busMaster then { s with cfg := cfg } else State.sendAllReplies { s with cfg := cfg })) := by
  split
  · obtain ⟨_, _, _, h, -⟩ := State.dropMessages_cases { s with cfg := cfg }
    rw [h]
    rfl
  · obtain ⟨_, _, _, h, -⟩ := State.dropMessages_cases (State.sendAllReplies { s with cfg := cfg })
    rw [h]
    rfl

theorem frozenTo_heldMessageRelease (s : State) : FrozenTo s (execHeldMessageRelease s) := by
  refine frozenTo_next ?_
  split
  · next v _ =>
    obtain ⟨_, _, _, _, h, -⟩ := s.releaseVector_frame v
    rw [h]
    rfl
  · exact .refl s

theorem frozenTo_postedWriteDepart (s : State) : FrozenTo s (execPostedWriteDepart s) := by
  refine frozenTo_next (.ite ?_ (.refl s))
  split
  · exact .refl s
  · rfl

/-- Short writes and writes of ignored registers change nothing (R177). -/
theorem frozenTo_registerWriteIgnored (s : State) (offset size : Nat) (w : Word32)
    (hw : (Instr.registerWriteIgnored offset size w).wellFormed = true) :
    FrozenTo s (execRegisterWriteIgnored offset size w s) := by
  refine frozenTo_next (frozen_access s ?_)
  unfold State.writeRegister
  split
  · exact .refl s
  · next hsize =>
    have hign : Instr.ignoredOffset offset = true := by
      simp only [Instr.wellFormed, Bool.and_eq_true, Bool.or_eq_true, decide_eq_true_eq, beq_iff_eq] at hw
      obtain ⟨-, h | ⟨-, h⟩⟩ := hw
      · omega
      · exact h
    split
    case h_7 => exact .refl s
    all_goals exact absurd hign (by decide)

/-! ### What HALTED does not do -/

section
variable {s : State} (hd : s.device = .halted)
include hd

theorem not_running_of_halted : s.device ≠ .running := by rw [hd]; nofun

theorem grant_halted (q : Requester) : s.grant q = none := by simp [State.grant, hd]

theorem takeKind_halted (r : RingId) (k : Option RequestKind) : s.takeKind r k = s := by
  simp [State.takeKind, State.oldestSlot, hd]

theorem takeHold_halted (r : RingId) : s.takeHold r = s := by simp [State.takeHold, State.oldestSlot, hd]

theorem takeAdmin_halted (k : Option AdminKind) (f : State → Slot → State) : s.takeAdmin k f = s := by
  simp [State.takeAdmin, State.oldestAdmin, hd]

theorem mayWrite_halted (l : ListId) : s.mayWrite l = false := by
  have hno (l : ListId) : s.canWrite l = false := by simp [State.canWrite, hd]
  have hnone : listOrder.find? s.canWrite = none := List.find?_eq_none.2 fun l _ => by simp [hno l]
  simp [State.mayWrite, hnone]

theorem readsAllowed_halted : s.readsAllowed = false := by simp [State.readsAllowed, hd]

theorem returnTaken_halted (x : Read) : s.returnTaken x = false := by simp [State.returnTaken, hd]

theorem frozen_returnFault (p : PlaceId) (x : Read) : Frozen s (s.returnFault p x) := by
  rw [State.returnFault, returnTaken_halted hd]
  rfl

theorem frozen_returnData (p : PlaceId) (x : Read) (n : Nat) (f : State → State) :
    Frozen s (s.returnData p x n f) := by
  refine .ite (.refl s) (.ite ?_ (frozen_returnFault hd p x))
  rw [returnTaken_halted hd]
  rfl

theorem frozen_adminRegisterWrite (f : State → State) : Frozen s (s.adminRegisterWrite f) := by
  rw [State.adminRegisterWrite, if_neg (by rw [hd]; nofun)]
  exact frozen_setFault s _

theorem frozen_indexPost (w : Word32) : Frozen s (s.indexPost w) := by
  rw [State.indexPost, if_pos (not_running_of_halted hd)]
  exact frozen_setFault s _

/-! The commands. -/

/-- ENABLE is ignored outside IDLE (R164). -/
theorem frozenTo_controlEnable (w : Word32) (hw : (Instr.controlEnable w).wellFormed = true) :
    FrozenTo s (execControlEnable w s) := by
  refine frozenTo_next (frozen_access s ?_)
  simp only [Instr.wellFormed, Bool.and_eq_true, Bool.not_eq_true'] at hw
  obtain ⟨-, hreset⟩ := hw
  rw [State.controlWrite, if_neg (by rw [hreset]; nofun)]
  exact .of_eq (by simp [hd])

theorem frozenTo_microsecondTick : FrozenTo s (execMicrosecondTick s) := by
  refine frozenTo_next ?_
  rw [if_neg (not_running_of_halted hd)]
  rfl

theorem frozenTo_expiry : FrozenTo s (execExpiry s) := by
  refine frozenTo_next ?_
  split
  · exact .refl s
  · split
    · exact .of_eq (by simp [hd])
    · exact .refl s

theorem frozenTo_waitEntryTimeout (r : RingId) : FrozenTo s (execWaitEntryTimeout r s) := by
  refine frozenTo_next ?_
  split
  · exact .of_eq (by simp [hd])
  · exact .refl s

theorem frozenTo_holdoffExpiry (c : CRingId) : FrozenTo s (execHoldoffExpiry c s) :=
  frozenTo_next (.of_eq (by simp [hd]))

theorem frozenTo_readTimeout (i : PlaceId) : FrozenTo s (execReadTimeout i s) := by
  refine frozenTo_next ?_
  split
  · exact .ite (frozen_returnFault hd _ _) (.refl s)
  · exact .refl s

theorem frozenTo_fetchReadIssue : FrozenTo s (execFetchReadIssue s) :=
  frozenTo_next (.of_eq (by simp [readsAllowed_halted hd]))

theorem frozenTo_bulkDataReadIssue : FrozenTo s (execBulkDataReadIssue s) :=
  frozenTo_next (.of_eq (by simp [readsAllowed_halted hd]))

theorem frozenTo_fetchReadFault (i : PlaceId) : FrozenTo s (execFetchReadFault i s) := by
  refine frozenTo_next ?_
  split
  · split
    · exact frozen_returnFault hd _ _
    · exact .refl s
  · exact .refl s

theorem frozenTo_adminFetchReadFault (i : PlaceId) : FrozenTo s (execAdminFetchReadFault i s) := by
  refine frozenTo_next ?_
  split
  · split
    · exact frozen_returnFault hd _ _
    · exact .refl s
  · exact .refl s

theorem frozenTo_bulkDataFault (i : PlaceId) : FrozenTo s (execBulkDataFault i s) := by
  refine frozenTo_next ?_
  split
  · split
    · exact frozen_returnFault hd _ _
    · exact .refl s
  · exact .refl s

theorem frozenTo_fetchReadReturn (i : PlaceId) (data : List Slot) : FrozenTo s (execFetchReadReturn i data s) := by
  refine frozenTo_next ?_
  split
  · split
    · exact frozen_returnData hd _ _ _ _
    · exact .refl s
  · exact .refl s

theorem frozenTo_adminFetchReturn (i : PlaceId) (data : List Slot) : FrozenTo s (execAdminFetchReturn i data s) := by
  refine frozenTo_next ?_
  split
  · split
    · exact frozen_returnData hd _ _ _ _
    · exact .refl s
  · exact .refl s

theorem frozenTo_bulkDataReturn (i : PlaceId) (data : List CellValue) :
    FrozenTo s (execBulkDataReturn i data s) := by
  refine frozenTo_next ?_
  split
  · split
    · exact frozen_returnData hd _ _ _ _
    · exact .refl s
  · exact .refl s

theorem frozenTo_takeKind (r : RingId) (k : Option RequestKind) : FrozenTo s (.next (s.takeKind r k)) := by
  rw [takeKind_halted hd]; exact frozenTo_same s

theorem frozenTo_takeAdmin (k : Option AdminKind) (f : State → Slot → State) :
    FrozenTo s (.next (s.takeAdmin k f)) := by
  rw [takeAdmin_halted hd]; exact frozenTo_same s

theorem frozenTo_hold (r : RingId) : FrozenTo s (execHold r s) := by
  rw [execHold, takeHold_halted hd]; exact frozenTo_same s

theorem frozenTo_updateOperation (r : RingId) : FrozenTo s (execUpdateOperation r s) := by
  refine frozenTo_next ?_
  split
  · rw [grant_halted hd]; exact .refl s
  · exact .refl s

theorem frozenTo_holdArrival (r : RingId) : FrozenTo s (execHoldArrival r s) := by
  refine frozenTo_next ?_
  split
  · rw [grant_halted hd]; exact .refl s
  · exact .refl s

theorem frozenTo_holdRetry (r : RingId) : FrozenTo s (execHoldRetry r s) := by
  refine frozenTo_next ?_
  split
  · rw [grant_halted hd]; exact .refl s
  · exact .refl s

theorem frozenTo_scanStep : FrozenTo s (execScanStep s) := by
  refine frozenTo_next ?_
  split
  · split
    · rw [grant_halted hd]; exact .ite (.refl s) (.refl s)
    · exact .refl s
  · exact .refl s

theorem frozenTo_bulkReadCell (r : RingId) : FrozenTo s (execBulkReadCell r s) := by
  unfold execBulkReadCell
  split
  · rw [grant_halted hd]
    dsimp only
    split <;> exact frozenTo_same s
  · exact frozenTo_same s

theorem frozenTo_bulkWriteCell (r : RingId) : FrozenTo s (execBulkWriteCell r s) := by
  unfold execBulkWriteCell
  split
  · rw [grant_halted hd]
    dsimp only
    split <;> exact frozenTo_same s
  · exact frozenTo_same s

theorem frozenTo_clearCellsCell : FrozenTo s (execClearCellsCell s) := by
  unfold execClearCellsCell
  split
  · rw [grant_halted hd]
    dsimp only
    split <;> exact frozenTo_same s
  · exact frozenTo_same s

theorem frozenTo_fetchEventEntry (r : RingId) : FrozenTo s (execFetchEventEntry r s) := by
  refine frozenTo_next ?_
  split
  · exact .of_eq (by simp [hd])
  · exact .refl s

theorem frozenTo_drainEnd (r : RingId) : FrozenTo s (execDrainEnd r s) :=
  frozenTo_next (.of_eq (by simp [hd]))

theorem frozenTo_completionRecordWrite (l : ListId) : FrozenTo s (execCompletionRecordWrite l s) :=
  frozenTo_next (.of_eq (by simp [mayWrite_halted hd]))

theorem frozenTo_resetValuesTaken : FrozenTo s (execResetValuesTaken s) :=
  frozenTo_next (.of_eq (by simp [hd]))

end

/-- Settles O59: in HALTED each command but a reset moves its surroundings alone. -/
theorem haltedFreezesThePart : Obligations.HaltedFreezesThePart := by
  intro s t c hd hw hpower hlink hreset
  suffices h : FrozenTo s (exec c s) from h t
  cases c with
  | powerOnReset => exact absurd rfl hpower
  | linkReset mid => exact absurd rfl (hlink mid)
  | controlReset w mid => exact absurd rfl (hreset w mid)
  | controlEnable w => exact frozenTo_controlEnable hd w hw
  | resetValuesTaken => exact frozenTo_resetValuesTaken hd
  | faultWrite w => exact frozenTo_next (frozen_access s rfl)
  | adminBaseLowWrite w => exact frozenTo_next (frozen_access s (frozen_adminRegisterWrite hd _))
  | adminBaseHighWrite w => exact frozenTo_next (frozen_access s (frozen_adminRegisterWrite hd _))
  | adminSizeWrite w => exact frozenTo_next (frozen_access s (frozen_adminRegisterWrite hd _))
  | requestRingProducerPost w => exact frozenTo_next (frozen_access s (frozen_indexPost hd w))
  | adminProducerPost w => exact frozenTo_next (frozen_access s (frozen_indexPost hd w))
  | completionConsumerPost w => exact frozenTo_next (frozen_access s (frozen_indexPost hd w))
  | adminCompletionConsumerPost w => exact frozenTo_next (frozen_access s (frozen_indexPost hd w))
  | timeLowRead first count => exact frozenTo_next (frozen_access s (frozen_readRegister s _ _))
  | registerWriteIgnored offset size w => exact frozenTo_registerWriteIgnored s offset size w hw
  | microsecondTick => exact frozenTo_microsecondTick hd
  | expiry => exact frozenTo_expiry hd
  | waitEntryTimeout r => exact frozenTo_waitEntryTimeout hd r
  | holdoffExpiry c => exact frozenTo_holdoffExpiry hd c
  | readTimeout i => exact frozenTo_readTimeout hd i
  | fetchReadIssue => exact frozenTo_fetchReadIssue hd
  | fetchReadReturn i data => exact frozenTo_fetchReadReturn hd i data
  | fetchReadFault i => exact frozenTo_fetchReadFault hd i
  | adminFetchReturn i data => exact frozenTo_adminFetchReturn hd i data
  | adminFetchReadFault i => exact frozenTo_adminFetchReadFault hd i
  | bulkDataReadIssue => exact frozenTo_bulkDataReadIssue hd
  | bulkDataReturn i data => exact frozenTo_bulkDataReturn hd i data
  | bulkDataFault i => exact frozenTo_bulkDataFault hd i
  | nop r => exact frozenTo_takeKind hd r _
  | unknownKind r => exact frozenTo_takeKind hd r _
  | update r => exact frozenTo_takeKind hd r _
  | updateOperation r => exact frozenTo_updateOperation hd r
  | hold r => exact frozenTo_hold hd r
  | holdArrival r => exact frozenTo_holdArrival hd r
  | holdRetry r => exact frozenTo_holdRetry hd r
  | scanStep => exact frozenTo_scanStep hd
  | bulkRead r => exact frozenTo_takeKind hd r _
  | bulkReadCell r => exact frozenTo_bulkReadCell hd r
  | bulkWrite r => exact frozenTo_takeKind hd r _
  | bulkWriteCell r => exact frozenTo_bulkWriteCell hd r
  | cancel r => exact frozenTo_takeKind hd r _
  | fetchEventEntry r => exact frozenTo_fetchEventEntry hd r
  | drainEnd r => exact frozenTo_drainEnd hd r
  | completionRecordWrite l => exact frozenTo_completionRecordWrite hd l
  | heldMessageRelease => exact frozenTo_heldMessageRelease s
  | postedWriteDepart => exact frozenTo_postedWriteDepart s
  | adminNop => exact frozenTo_takeAdmin hd _ _
  | adminUnknownKind => exact frozenTo_takeAdmin hd _ _
  | configureRequestRing => exact frozenTo_takeAdmin hd _ _
  | configureCompletionRing => exact frozenTo_takeAdmin hd _ _
  | startRing => exact frozenTo_takeAdmin hd _ _
  | stopRing => exact frozenTo_takeAdmin hd _ _
  | resetRing => exact frozenTo_takeAdmin hd _ _
  | resetCompletionRing => exact frozenTo_takeAdmin hd _ _
  | cancelHolds => exact frozenTo_takeAdmin hd _ _
  | clearCells => exact frozenTo_takeAdmin hd _ _
  | clearCellsCell => exact frozenTo_clearCellsCell hd
  | readStatus => exact frozenTo_takeAdmin hd _ _
  | configurationSpaceWrite cfg => exact frozenTo_next (frozen_configure s cfg)

end Sys2Proof.Machine
end

section
/-! PROOFS. Claims (R49, R53, R58, R66) and scan steps (R64, R65, R67, R70): where the position goes, and what becomes
of the entry and its lists. -/

namespace Sys2Proof.Machine

-- One proof at a time: each further thread of the compile takes 1 GB of the check's fixed memory.
set_option Elab.async false

/-! ### Where the position goes -/

/-- In `t` the position stands on the first entry of `post` in the list of cell `c`; past its end the scan has taken the
head of `queue`, or is IDLE (R65, R67). -/
structure ScanMoved (queue : List CellId) (c : CellId) (post : List EntryId) (t : State) : Prop where
  next : ∀ f rest, post = f :: rest → t.scan = .scanning c f ∧ t.wakeQueue = queue
  ends : post = [] → queue = [] → t.scan = .idle ∧ t.wakeQueue = []
  takes : post = [] → ∀ d f rest, queue = d :: rest → (t.watchList d).head? = some f →
    t.scan = .scanning d f ∧ t.wakeQueue = rest

/-- The position moves to the entry that stood behind entry `e` in the list `l` (R64 to R66). -/
theorem scanMoved_moveOn (s : State) {c : CellId} {e : EntryId} {l pre post : List EntryId}
    (hl : l = pre ++ e :: post) (he : e ∉ pre) : ScanMoved s.wakeQueue c post (s.moveOn c (successor e l)) := by
  rw [hl, successor_split he]
  cases post with
  | cons f rest => exact ⟨fun _ _ h => by cases h; exact ⟨rfl, rfl⟩, nofun, nofun⟩
  | nil =>
    refine ⟨nofun, fun _ hq => ?_, fun _ d f rest hq hf => ?_⟩
    · change s.takeHead.scan = _ ∧ s.takeHead.wakeQueue = _
      rw [takeHead_nil s hq]
      exact ⟨rfl, rfl⟩
    · change s.takeHead.scan = _ ∧ s.takeHead.wakeQueue = _
      rw [takeHead_cons s hq hf]
      exact ⟨rfl, rfl⟩

theorem wakeQueue_dropEntry (s : State) (e : EntryId) (c : CellId) : (s.dropEntry e c).wakeQueue =
    if (s.watchList c).erase e = [] then s.wakeQueue.erase c else s.wakeQueue := by
  simp only [State.dropEntry, List.isEmpty_iff]

/-! ### A claim -/

theorem claimEnd_armed (s : State) (st : Status) {e : EntryId} {x : HoldEntry} (he : s.entry e = some x)
    (hx : x.isArmed = true) : s.claimEnd st e =
      (if s.scan = .scanning x.cond.cell e then
          (s.dropEntry e x.cond.cell).moveOn x.cond.cell (successor e (s.watchList x.cond.cell))
        else s.dropEntry e x.cond.cell).endWith e x ⟨st, .none, none, s.now32⟩ := by
  simp [State.claimEnd, he, hx]

/-- Settles O14: the entry leaves its lists and joins that of its completion ring, and the position moves on. -/
theorem claimsEndArmedEntriesAlone : Obligations.ClaimsEndArmedEntriesAlone := by
  refine ⟨fun s st e h => ?_, fun s st e x hw he hx => ?_⟩
  · cases he : s.entry e with
    | none => exact s.claimEnd_free st e he
    | some x => exact s.claimEnd_ended st e x he (h x he)
  intro c t queue
  have hqueue : (s.dropEntry e c).wakeQueue = queue := wakeQueue_dropEntry s e c
  have ht : t = (if s.scan = .scanning c e then (s.dropEntry e c).moveOn c (successor e (s.watchList c))
      else s.dropEntry e c).endWith e x ⟨st, .none, none, s.now32⟩ := claimEnd_armed s st he hx
  obtain ⟨y, q, hmoved⟩ : ∃ y q, (if s.scan = .scanning c e then
      (s.dropEntry e c).moveOn c (successor e (s.watchList c)) else s.dropEntry e c) =
        { s.dropEntry e c with scan := y, wakeQueue := q } := by
    split
    · exact (s.dropEntry e c).moveOn_frame c _
    · exact ⟨_, _, rfl⟩
  have ht' := ht
  rw [hmoved] at ht'
  have hlist (d : CellId) : t.watchList d = if d = c then (s.watchList c).erase e else s.watchList d := by
    rw [← watchList_dropEntry s e c d hw, ht']
    rfl
  have hcring (i : CRingId) : t.cring i =
      if x.cring = i then { s.cring x.cring with list := (s.cring x.cring).list ++ [.entry e] } else s.cring i := by
    rw [ht']
    exact State.cring_joinList _ _ _ _
  refine ⟨?_, fun i hi => ?_, ?_, fun d hd => ?_, ?_, ?_, fun i hi => ?_, fun hs => ?_,
    fun hs pre post hl hpre => ?_, ?_⟩
  · rw [s.entry_claimEnd st e e, if_pos rfl, he, Option.map_some, if_pos hx]
    rfl
  · rw [s.entry_claimEnd st e i, if_neg (Ne.symm hi)]
  · rw [hlist, if_pos rfl]
  · rw [hlist, if_neg hd]
  · rw [ht']; rfl
  · rw [hcring, if_pos rfl]
  · rw [hcring, if_neg (Ne.symm hi)]
  · rw [ht, if_neg hs]
    exact ⟨rfl, hqueue⟩
  · have hm := scanMoved_moveOn (s.dropEntry e c) (c := c) hl hpre
    rw [if_pos hs] at ht
    rw [hqueue] at hm
    rw [ht]
    exact ⟨hm.next, hm.ends, hm.takes⟩
  · obtain ⟨_, _, _, _, _, _, hframe⟩ := s.claimEnd_frame st e
    rw [show t = _ from hframe]

/-! ### A scan step -/

theorem exec_scanStep {s g : State} {c : CellId} {e : EntryId} {x : HoldEntry} (hg : s.grant .scan = some g)
    (hscan : s.scan = .scanning c e) (he : s.entry e = some x) (hx : x.isArmed = true) :
    exec .scanStep s = .next (g.testEntry c e x) := by
  change execScanStep s = _
  simp [execScanStep, hg, hscan, he, hx]

/-- A grant moves nothing that a scan step reads (R20). -/
structure Granted (s g : State) : Prop where
  mem : g.mem = s.mem
  table : g.table = s.table
  watch : g.watch = s.watch
  deadlines : g.deadlines = s.deadlines
  occupancy : g.occupancy = s.occupancy
  wakeQueue : g.wakeQueue = s.wakeQueue
  scan : g.scan = s.scan
  crings : g.crings = s.crings
  contexts : g.contexts = s.contexts
  timeBase : g.timeBase = s.timeBase

theorem granted {s g : State} {q : Requester} (h : s.grant q = some g) : Granted s g := by
  obtain ⟨p, k, o, rfl⟩ := s.grant_frame h
  exact ⟨rfl, rfl, rfl, rfl, rfl, rfl, rfl, rfl, rfl, rfl⟩

theorem Granted.watchList {s g : State} (h : Granted s g) (c : CellId) : g.watchList c = s.watchList c := by
  rw [State.watchList, h.watch, State.watchList]

theorem Granted.entry {s g : State} (h : Granted s g) (e : EntryId) : g.entry e = s.entry e := by
  rw [State.entry, h.table, State.entry]

theorem Granted.cring {s g : State} (h : Granted s g) (c : CRingId) : g.cring c = s.cring c := by
  rw [State.cring, h.crings, State.cring]

theorem Granted.ctx {s g : State} (h : Granted s g) (r : RingId) : g.ctx r = s.ctx r := by
  rw [State.ctx, h.contexts, State.ctx]

theorem Granted.occ {s g : State} (h : Granted s g) (r : RingId) : g.occ r = s.occ r := by
  rw [State.occ, h.occupancy, State.occ]

/-- Settles O32: the position alone moves, and without a grant nothing does. -/
theorem scanStepsPassFalseEntries : Obligations.ScanStepsPassFalseEntries := by
  refine ⟨fun s g c e x pre post hg hscan he hx hfalse hl hpre => ?_, fun s hs => ?_⟩
  · have hsame := granted hg
    have hstep : exec .scanStep s = .next (g.moveOn c post.head?) := by
      rw [exec_scanStep hg hscan he hx, State.testEntry, hsame.mem, hfalse, hsame.watchList, hl,
        successor_split hpre]
      rfl
    rw [hstep]
    refine ⟨fun f rest hp => ?_, fun hp hq => ?_, fun hp d f rest hq hf => ?_⟩ <;> subst hp
    · rfl
    · have hq' : g.wakeQueue = [] := hsame.wakeQueue.trans hq
      refine congrArg _ ((takeHead_nil g hq').trans ?_)
      rw [← hq']
    · exact congrArg _ (takeHead_cons g (hsame.wakeQueue.trans hq) (by rw [hsame.watchList]; exact hf))
  · change execScanStep s = _
    unfold execScanStep
    obtain hs | hs := hs
    · rw [hs]
    · have hno : s.grant .scan = none := by rcases hs with hs | hs <;> simp [State.grant, hs]
      rw [hno]
      split
      · split
        · split <;> rfl
        · rfl
      · rfl

/-! ### A firing -/

/-- What a firing with QUIET leaves: the entry is FREE, and waiting contexts are ready (R41, R55, R64). -/
theorem fired_quiet_eq (s : State) {e : EntryId} {x : HoldEntry} (w : CellValue) (he : s.entry e = some x)
    (hq : x.quiet = true) : s.fired e x w =
      (((State.dropEntry { s with mem := (performAction s.mem x.act).mem } e x.cond.cell).setEntry e none).setOcc
        x.origin (s.occ x.origin - 1)).makeReady := by
  rw [fired_quiet s e x w hq]
  exact State.freeEntry_some _ e x he

theorem endWith_frame (s : State) (e : EntryId) (x : HoldEntry) (res : HoldResult) :
    ∃ t r, s.endWith e x res = { s with table := t, crings := r } := ⟨_, _, rfl⟩

/-- A firing touches the cells, the table, the lists, the queue and the contexts alone (R64). -/
theorem fired_frame (s : State) (e : EntryId) (x : HoldEntry) (w : CellValue) :
    ∃ m t l d o r k q, s.fired e x w = { s with
      mem := m, table := t, watch := l, deadlines := d, occupancy := o, crings := r, contexts := k,
      wakeQueue := q } := by
  obtain ⟨l, q, d, hdrop⟩ :=
    State.dropEntry_frame { s with mem := (performAction s.mem x.act).mem } e x.cond.cell
  by_cases hq : x.quiet = true
  · rw [fired_quiet s e x w hq, hdrop]
    obtain ⟨t, o, k, h⟩ := State.freeEntry_frame
      { s with mem := (performAction s.mem x.act).mem, watch := l, wakeQueue := q, deadlines := d } e
    exact ⟨_, t, l, d, o, _, k, q, h⟩
  · rw [fired_reported s e x w (Bool.not_eq_true _ ▸ hq), hdrop]
    obtain ⟨t, r, h⟩ := endWith_frame
      { s with mem := (performAction s.mem x.act).mem, watch := l, wakeQueue := q, deadlines := d } e x
      ⟨.ok, (performAction s.mem x.act).flags, actionValue x.act (performAction s.mem x.act).old w x.ret, s.now32⟩
    exact ⟨_, t, l, d, _, r, _, q, h⟩

/-- Freeing an entry makes waiting contexts ready (R41, R55). -/
theorem ctx_freeEntry (s : State) {e : EntryId} {x : HoldEntry} (he : s.entry e = some x) (r : RingId) :
    (s.freeEntry e).ctx r = { s.ctx r with work := (s.ctx r).work.makeReady } := by
  rw [s.freeEntry_some e x he, State.ctx_makeReady]
  rfl

section
variable (s : State) {e : EntryId} {x : HoldEntry} (w : CellValue)

/-- With QUIET the occupancy of the entry's ring falls (R59, R64). -/
theorem occ_fired_quiet (he : s.entry e = some x) (hq : x.quiet = true) (r : RingId) :
    (s.fired e x w).occ r = if x.origin = r then s.occ x.origin - 1 else s.occ r := by
  rw [fired_quiet_eq s w he hq]
  exact State.occ_setOcc _ x.origin r _

/-- With QUIET waiting contexts become ready (R41, R55). -/
theorem ctx_fired_quiet (he : s.entry e = some x) (hq : x.quiet = true) (r : RingId) :
    (s.fired e x w).ctx r = { s.ctx r with work := (s.ctx r).work.makeReady } := by
  have hfree := ctx_freeEntry (State.dropEntry { s with mem := (performAction s.mem x.act).mem } e x.cond.cell)
    (show _ = some x from he) r
  rw [fired_quiet s e x w hq, hfree]
  rfl

theorem crings_fired_quiet (hq : x.quiet = true) : (s.fired e x w).crings = s.crings := by
  rw [fired_quiet s e x w hq, freeEntry_crings]
  rfl

/-- Without QUIET the entry joins the list of its completion ring (R64, R134). -/
theorem cring_fired_reported (hq : x.quiet = false) (c : CRingId) : (s.fired e x w).cring c =
    if x.cring = c then { s.cring x.cring with list := (s.cring x.cring).list ++ [.entry e] } else s.cring c := by
  rw [fired_reported s e x w hq, State.endWith, State.cring_joinList]
  rfl

theorem occupancy_fired_reported (hq : x.quiet = false) : (s.fired e x w).occupancy = s.occupancy := by
  rw [fired_reported s e x w hq]
  rfl

theorem contexts_fired_reported (hq : x.quiet = false) : (s.fired e x w).contexts = s.contexts := by
  rw [fired_reported s e x w hq]
  rfl

end

/-- A firing under the scan, with its change report (R61, R64, R70). -/
theorem fireEntry_scanning (s : State) (e : EntryId) (x : HoldEntry) (w : CellValue) (hs : s.scan ≠ .idle) :
    s.fireEntry e x w = { s.fired e x w with
      wakeQueue :=
        if x.act.apply (readCell s.mem x.act.target) ≠ readCell s.mem x.act.target ∧
            (s.fired e x w).watchList x.act.target ≠ [] ∧ x.act.target ∉ (s.fired e x w).wakeQueue
          then (s.fired e x w).wakeQueue ++ [x.act.target] else (s.fired e x w).wakeQueue } := by
  rw [fireEntry_eq, reportIf_scanning _ _ _ (by rw [fired_scan]; exact hs), flags_performAction]
  simp only [changed_flags_iff]

/-- A firing under the scan and the move of the position behind it touch `State.fired` in the scan and the queue
alone. -/
theorem fireEntry_moveOn_eq (s : State) (e : EntryId) (x : HoldEntry) (w : CellValue) (hs : s.scan ≠ .idle) (c : CellId)
    (n : Option EntryId) :
    ∃ y q, (s.fireEntry e x w).moveOn c n = { s.fired e x w with scan := y, wakeQueue := q } := by
  obtain ⟨y, q, hmove⟩ := (s.fireEntry e x w).moveOn_frame c n
  exact ⟨y, q, by rw [hmove, fireEntry_scanning s e x _ hs]⟩

/-- Settles O31: the entry at the position fires, its change is reported, and the position moves on. -/
theorem scanStepsFireTrueEntries : Obligations.ScanStepsFireTrueEntries := by
  intro s g c e x hg hm hw hscan he hx hcell hholds old new flags value left q0
  have hsame := granted hg
  have hbusy : g.scan ≠ .idle := by rw [hsame.scan, hscan]; nofun
  have he' : g.entry e = some x := (hsame.entry e).trans he
  have hw' : sparseWf [] g.watch = true := by rw [hsame.watch]; exact hw
  obtain ⟨v, hv⟩ : ∃ v, v = g.fired e x (readCell s.mem c) := ⟨_, rfl⟩
  obtain ⟨u, hstep⟩ : ∃ u, u = (g.fireEntry e x (readCell s.mem c)).moveOn c (successor e (s.watchList c)) := ⟨_, rfl⟩
  obtain ⟨y, q, hu⟩ : ∃ y q, u = { v with scan := y, wakeQueue := q } := by
    rw [hstep, hv]
    exact fireEntry_moveOn_eq g e x _ hbusy c _
  have hvlist (d : CellId) : v.watchList d = if d = c then left else s.watchList d := by
    rw [hv, fired_watchList, watchList_dropEntry g e _ d hw', hcell, hsame.watchList, hsame.watchList]
  have hlist (d : CellId) : u.watchList d = v.watchList d := by rw [hu]; rfl
  have hexec : exec .scanStep s = .next (u.releaseFence x.origin) := by
    rw [exec_scanStep hg hscan he hx, State.testEntry, hsame.mem, hholds, hsame.watchList, hstep]
    rfl
  refine ⟨u, hexec, fun a => ?_, fun i hi => ?_, ?_, fun d hd => ?_, ?_, fun hq => ?_, fun hq => ?_, ?_, ?_⟩
  · rw [hu]
    change readByte v.mem a = _
    rw [hv, fired_mem, hsame.mem]
    exact readByte_performAction_eq s.mem x.act hm a
  · rw [hu]
    change v.entry i = _
    rw [hv, entry_fired, if_neg (Ne.symm hi), hsame.entry]
  · rw [hlist, hvlist, if_pos rfl]
  · rw [hlist, hvlist, if_neg hd]
  · rw [hu]
    change v.deadlines = _
    rw [hv, fired_deadlines, hsame.deadlines]
  · have hocc (i : RingId) : u.occ i = if x.origin = i then s.occ x.origin - 1 else s.occ i := by
      rw [← hsame.occ, ← hsame.occ, ← occ_fired_quiet g (readCell s.mem c) he' hq, ← hv, hu]
      rfl
    have hctx (i : RingId) : u.ctx i = { s.ctx i with work := (s.ctx i).work.makeReady } := by
      rw [← hsame.ctx, ← ctx_fired_quiet g (readCell s.mem c) he' hq, ← hv, hu]
      rfl
    refine ⟨?_, by rw [hocc, if_pos rfl], fun i hi => by rw [hocc, if_neg (Ne.symm hi)], ?_, fun i q d b hb => ?_,
      fun i hb => ?_⟩
    · rw [hu]
      change v.entry e = _
      rw [hv, entry_fired, if_pos rfl, if_pos hq]
    · rw [hu]
      change v.crings = _
      rw [hv, crings_fired_quiet g _ hq, hsame.crings]
    · rw [hctx, hb]; rfl
    · rw [hctx, Work.makeReady_of_not_waitEntry hb]
  · have hcring (i : CRingId) : u.cring i =
        if x.cring = i then { s.cring x.cring with list := (s.cring x.cring).list ++ [.entry e] } else s.cring i := by
      rw [← hsame.cring, ← hsame.cring, ← cring_fired_reported g (readCell s.mem c) hq, ← hv, hu]
      rfl
    refine ⟨?_, ?_, ?_, by rw [hcring, if_pos rfl], fun i hi => by rw [hcring, if_neg (Ne.symm hi)]⟩
    · rw [hu]
      change v.entry e = _
      rw [hv, entry_fired, if_pos rfl, if_neg (by rw [hq]; nofun), flags_performAction, actionValue_performAction,
        hsame.mem, State.now32, hsame.timeBase]
      rfl
    · rw [hu]
      change v.occupancy = _
      rw [hv, occupancy_fired_reported g _ hq, hsame.occupancy]
    · rw [hu]
      change v.contexts = _
      rw [hv, contexts_fired_reported g _ hq, hsame.contexts]
  · intro q1 pre post hl hpre
    have hq1 : (g.fireEntry e x (readCell s.mem c)).wakeQueue = q1 := by
      have hqueue : v.wakeQueue = q0 := by
        rw [hv, fired_wakeQueue, wakeQueue_dropEntry, hcell, hsame.watchList, hsame.wakeQueue]
      rw [fireEntry_scanning g e x _ hbusy, ← hv, hsame.mem]
      dsimp only
      rw [hqueue, ← hlist]
      rfl
    have hmoved := scanMoved_moveOn (g.fireEntry e x (readCell s.mem c)) (c := c) hl hpre
    rw [hq1, ← hstep] at hmoved
    exact ⟨hmoved.next, hmoved.ends, hmoved.takes⟩
  · obtain ⟨_, _, _, _, _, _, _, _, hframe⟩ := fired_frame g e x (readCell s.mem c)
    rw [hu, hv, hframe]

end Sys2Proof.Machine
end

section
/-! PROOFS. Every cascade ends (R71): a firing leaves fewer ARMED entries, and between two firings each step tests one
of the entries that the scan has still to come to. -/

namespace Sys2Proof.Machine

-- One proof at a time: each further thread of the compile takes 1 GB of the check's fixed memory.
set_option Elab.async false

/-! ### The entries that are ARMED -/

/-- All ARMED entries. -/
def State.allArmed (s : State) : List EntryId := s.armedEntries (fun _ => true)

theorem mem_allArmed (s : State) (e : EntryId) :
    e ∈ s.allArmed ↔ ∃ x, s.entry e = some x ∧ x.isArmed = true := by
  simp [State.allArmed, State.armedEntries, armedWith_iff]

theorem nodup_allArmed (s : State) : s.allArmed.Nodup := (List.nodup_finRange 256).filter _

theorem length_allArmed_le (s : State) : s.allArmed.length ≤ 256 :=
  (List.length_filter_le _ _).trans (List.length_finRange).le

/-- Entries without repetitions that are all ARMED are no more than there are. -/
theorem length_le_allArmed {s : State} {l : List EntryId} (hn : l.Nodup) (hl : ∀ e ∈ l, e ∈ s.allArmed) :
    l.length ≤ s.allArmed.length := (hn.subperm hl).length_le

/-- A command that frees sources arms nothing; so an entry that is ARMED after such moves was so before them. -/
theorem Moves.armed_before {p : Permits} (hp : p.free) {s t : State} (h : Moves p s t) {e : EntryId}
    (he : e ∈ t.allArmed) : e ∈ s.allArmed := by
  induction h with
  | refl => exact he
  | tail _ hm ih =>
    refine ih ?_
    obtain ⟨x, hx, ha⟩ := (mem_allArmed _ e).1 he
    cases hm.entryMove e with
    | kept h => exact (mem_allArmed _ e).2 ⟨x, h ▸ hx, ha⟩
    | armed y h ht hy hno => exact absurd hp hno
    | fired y h hy ht => exact (mem_allArmed _ e).2 ⟨y, h, hy⟩
    | ended y res h hy ht hres => exact (mem_allArmed _ e).2 ⟨y, h, hy⟩
    | freed ht hp => rw [ht] at hx; cases hx

/-- An entry that is ARMED no more leaves fewer behind. -/
theorem length_allArmed_lt {s t : State} (h : ∀ i ∈ t.allArmed, i ∈ s.allArmed) {e : EntryId} (he : e ∈ s.allArmed)
    (hne : e ∉ t.allArmed) : t.allArmed.length < s.allArmed.length := by
  have hsub : ∀ i ∈ t.allArmed, i ∈ s.allArmed.erase e := by
    intro i hi
    refine (List.mem_erase_of_ne ?_).2 (h i hi)
    rintro rfl
    exact hne hi
  have hle := ((nodup_allArmed t).subperm hsub).length_le
  rw [List.length_erase_of_mem he] at hle
  have := List.length_pos_of_mem he
  omega

/-! ### What the scan has still to come to -/

/-- The entries of the current cell that the scan has still to test. -/
def State.ahead (s : State) : List EntryId :=
  match s.scan with
  | .scanning c e => (s.watchList c).dropWhile (fun x => x ≠ e)
  | .idle => []

/-- How many entries the scan has still to test, if none of them fires. -/
def State.scanWork (s : State) : Nat := s.ahead.length + (s.wakeQueue.flatMap s.watchList).length

section
variable {s : State} (hs : s.HoldLaw) (hk : s.WakeLaw)
include hs

theorem watchList_armed {c : CellId} {e : EntryId} (he : e ∈ s.watchList c) : e ∈ s.allArmed := by
  obtain ⟨x, hx, ha, -⟩ := (armedWith_iff ..).1 ((hs.watchExact c e).1 he)
  exact (mem_allArmed s e).2 ⟨x, hx, ha⟩

/-- An entry watches one cell (R46). -/
theorem watchList_disjoint {c d : CellId} (hne : c ≠ d) : List.Disjoint (s.watchList c) (s.watchList d) := by
  intro e hc hd
  obtain ⟨x, hx, -, hxc⟩ := (armedWith_iff ..).1 ((hs.watchExact c e).1 hc)
  obtain ⟨y, hy, -, hyd⟩ := (armedWith_iff ..).1 ((hs.watchExact d e).1 hd)
  rw [hx, Option.some.injEq] at hy
  subst hy
  exact hne ((of_decide_eq_true hxc).symm.trans (of_decide_eq_true hyd))

theorem length_ahead_le : s.ahead.length ≤ s.allArmed.length := by
  unfold State.ahead
  split
  · next c e _ =>
    have hsub := List.dropWhile_sublist (fun x => decide (x ≠ e)) (l := s.watchList c)
    exact length_le_allArmed ((hs.watchNodup c).sublist hsub) fun i hi => watchList_armed hs (hsub.subset hi)
  · exact Nat.zero_le _

include hk

theorem length_queued_le : (s.wakeQueue.flatMap s.watchList).length ≤ s.allArmed.length := by
  refine length_le_allArmed (List.nodup_flatMap.2 ⟨fun c _ => hs.watchNodup c, ?_⟩) fun e he => ?_
  · exact hk.queueNodup.imp fun hne => watchList_disjoint hs hne
  · obtain ⟨c, -, hc⟩ := List.mem_flatMap.1 he
    exact watchList_armed hs hc

theorem scanWork_le : s.scanWork ≤ 2 * s.allArmed.length := by
  have := length_ahead_le hs
  have := length_queued_le hs hk
  unfold State.scanWork
  omega

/-- A scan in progress has its position to test. -/
theorem scanWork_pos {c : CellId} {e : EntryId} (hscan : s.scan = .scanning c e) : 0 < s.scanWork := by
  obtain ⟨pre, post, hl, hpre, -⟩ := scan_split hs hk hscan
  have hahead : s.ahead = e :: post := by rw [State.ahead, hscan]; dsimp only; rw [hl, dropWhile_split hpre]
  rw [State.scanWork, hahead, List.length_cons]
  omega

/-- A step that fires nothing leaves one entry less to test (R65, R67). -/
theorem scanWork_pass {c : CellId} {e : EntryId} (hscan : s.scan = .scanning c e) :
    (s.moveOn c (successor e (s.watchList c))).scanWork + 1 = s.scanWork := by
  obtain ⟨pre, post, hl, hpre, hsucc, hn, -⟩ := scan_split hs hk hscan
  have hnodup := hs.watchNodup c
  rw [hl, List.append_cons] at hnodup
  have hahead : s.ahead = e :: post := by rw [State.ahead, hscan]; dsimp only; rw [hl, dropWhile_split hpre]
  rw [hsucc]
  cases post with
  | cons f rest =>
    have hf : f ∉ pre ++ [e] := fun hf => (List.nodup_append.1 hnodup).2.2 f hf f List.mem_cons_self rfl
    have hmoved : (s.moveOn c (f :: rest).head?).ahead = f :: rest := by
      change (s.watchList c).dropWhile _ = _
      rw [hl, List.append_cons, dropWhile_split hf]
    rw [State.scanWork, State.scanWork, hmoved, hahead, List.length_cons (a := e)]
    change _ + (s.wakeQueue.flatMap s.watchList).length + 1 = _
    omega
  | nil =>
    change s.takeHead.scanWork + 1 = _
    rw [State.scanWork, State.scanWork, hahead]
    obtain ⟨hq, ht⟩ | ⟨d, f, rest, hq, hhead, ht⟩ := hk.queueSound.takeHead
    · rw [ht, hq]
      rfl
    · obtain ⟨es, hd⟩ := List.head?_eq_some_iff.1 hhead
      have hmoved : s.takeHead.ahead = s.watchList d := by
        rw [ht]
        change (s.watchList d).dropWhile _ = _
        rw [hd]
        exact dropWhile_split (pre := []) List.not_mem_nil
      rw [hmoved, ht, hq, List.flatMap_cons, List.length_append]
      change _ + (rest.flatMap s.watchList).length + 1 = _
      simp only [List.length_cons, List.length_nil]
      omega

end

/-! ### The cascade -/

/-- What is left of a cascade: each firing may queue every other ARMED entry's cell. -/
def State.cascade (s : State) : Nat := s.allArmed.length * (s.allArmed.length + 1) + s.scanWork

/-- The Wake Scan of a device that runs, under the laws of its lists. -/
structure State.Scannable (s : State) : Prop where
  running : s.device = .running
  holds : s.HoldLaw
  wakes : s.WakeLaw

theorem device_testEntry (s : State) (c : CellId) (e : EntryId) (x : HoldEntry) :
    (s.testEntry c e x).device = s.device := by
  unfold State.testEntry
  dsimp only
  split
  · obtain ⟨_, _, _, _, _, _, _, hfence⟩ := State.releaseFence_frame
      ((s.fireEntry e x (readCell s.mem c)).moveOn c (successor e (s.watchList c))) x.origin
    obtain ⟨_, _, hmove⟩ :=
      (s.fireEntry e x (readCell s.mem c)).moveOn_frame c (successor e (s.watchList c))
    obtain ⟨_, _, hreport⟩ := (s.fired e x (readCell s.mem c)).reportIf_frame
      (performAction s.mem x.act).flags.changed x.act.target
    obtain ⟨_, _, _, _, _, _, _, _, hfired⟩ := fired_frame s e x (readCell s.mem c)
    rw [hfence, hmove, fireEntry_eq, hreport, hfired]
  · obtain ⟨_, _, hmove⟩ := s.moveOn_frame c (successor e (s.watchList c))
    rw [hmove]

/-- In RUNNING a scan in progress holds the grant, and its step brings the cascade nearer to its end (R18, R71). -/
theorem State.Scannable.step {s : State} (h : s.Scannable) {c : CellId} {e : EntryId}
    (hscan : s.scan = .scanning c e) : ∃ t, exec .scanStep s = .next t ∧ t.Scannable ∧ t.cascade < s.cascade := by
  obtain ⟨hrun, hs, hk⟩ := h
  have hg : s.grant .scan = some s := grant_chosen s hrun (s.chosen_scan.2 (by rw [hscan]; nofun))
  obtain ⟨x, he, hx, hcell⟩ := scan_watches hs hk hscan
  have hexec := exec_scanStep hg hscan he hx
  have hmoves : Moves ⟨fun _ => True, True⟩ s (s.testEntry c e x) := moves_testEntry s c e x hscan he hx
  have hlaws : (s.testEntry c e x).HoldLaw ∧ (s.testEntry c e x).WakeLaw :=
    hmoves.keeps (P := fun s => s.HoldLaw ∧ s.WakeLaw) (fun _ _ hm ⟨hs, hk⟩ => ⟨hm.holdLaw hs, hm.wakeLaw hs hk⟩)
      ⟨hs, hk⟩
  refine ⟨_, hexec, ⟨(device_testEntry s c e x).trans hrun, hlaws.1, hlaws.2⟩, ?_⟩
  have hbefore : ∀ i ∈ (s.testEntry c e x).allArmed, i ∈ s.allArmed := fun i => hmoves.armed_before trivial
  by_cases hholds : x.cond.holds (readCell s.mem c) = true
  · have hnot : e ∉ (s.testEntry c e x).allArmed := by
      rw [State.testEntry, if_pos hholds]
      intro hin
      have hfence : Moves ⟨fun _ => True, True⟩ _ _ := moves_releaseFence
        ((s.fireEntry e x (readCell s.mem c)).moveOn c (successor e (s.watchList c))) x.origin
      obtain ⟨y, hy, hya⟩ := (mem_allArmed _ e).1 (hfence.armed_before trivial hin)
      rw [entry_moveOn, entry_fireEntry, entry_fired, if_pos rfl] at hy
      split at hy
      · cases hy
      · cases hy; cases hya
    have hlt := length_allArmed_lt hbefore ((mem_allArmed s e).2 ⟨x, he, hx⟩) hnot
    have hwork := scanWork_le hlaws.1 hlaws.2
    have hpos := scanWork_pos hs hk hscan
    unfold State.cascade
    generalize (s.testEntry c e x).allArmed.length = n at *
    obtain ⟨m, hm⟩ := Nat.exists_eq_add_of_lt hlt
    rw [hm]
    nlinarith
  · have htest : s.testEntry c e x = s.moveOn c (successor e (s.watchList c)) := by
      rw [State.testEntry, if_neg hholds]
    have hwork := scanWork_pass hs hk hscan
    have harmed : (s.moveOn c (successor e (s.watchList c))).allArmed = s.allArmed := by
      obtain ⟨_, _, hmove⟩ := s.moveOn_frame c (successor e (s.watchList c))
      rw [hmove]
      rfl
    rw [htest, State.cascade, State.cascade, harmed]
    omega

theorem scanSteps_idle {s : State} (hs : s.scan = .idle) (n : Nat) : State.scanSteps n s = s := by
  cases n with
  | zero => rfl
  | succ n => rw [State.scanSteps, hs]

/-- As many steps as the cascade measures end it. -/
theorem scanSteps_ends {s : State} (h : s.Scannable) (n : Nat) (hn : s.cascade ≤ n) :
    (State.scanSteps n s).scan = .idle ∧ (State.scanSteps n s).wakeQueue = [] := by
  induction n generalizing s with
  | zero =>
    cases hscan : s.scan with
    | idle => exact ⟨hscan, h.wakes.idleEmpty hscan⟩
    | scanning c e =>
      have := scanWork_pos h.holds h.wakes hscan
      unfold State.cascade at hn
      omega
  | succ n ih =>
    cases hscan : s.scan with
    | idle => rw [scanSteps_idle hscan]; exact ⟨hscan, h.wakes.idleEmpty hscan⟩
    | scanning c e =>
      obtain ⟨t, ht, hlaws, hlt⟩ := h.step hscan
      have hstep : State.scanSteps (n + 1) s = State.scanSteps n t := by
        rw [State.scanSteps, hscan]
        dsimp only
        rw [ht]
      rw [hstep]
      exact ih hlaws (by omega)

theorem cascade_le {s : State} (h : s.Scannable) : s.cascade ≤ 131072 := by
  have hlen := length_allArmed_le s
  have hwork := scanWork_le h.holds h.wakes
  have hmul := Nat.mul_le_mul hlen (Nat.add_le_add_right hlen 1)
  unfold State.cascade
  omega

/-- Settles O54: 256 ARMED entries allow fewer steps. -/
theorem everyCascadeEnds : Obligations.EveryCascadeEnds := fun _ hrun hs hk =>
  scanSteps_ends ⟨hrun, hs, hk⟩ 131072 (cascade_le ⟨hrun, hs, hk⟩)

end Sys2Proof.Machine
end

section
/-! PROOFS. The record write of a completion ring (R136, R137, R145 to R148): when it is made, what it hands over and
counts, and the freeing of the source (R51, R55). -/

namespace Sys2Proof.Machine

-- One proof at a time: each further thread of the compile takes 1 GB of the check's fixed memory.
set_option Elab.async false

/-! ### When a record is written (R136, R137, R174) -/

theorem canWrite_ring_iff (s : State) (c : CRingId) : s.canWrite (.ring c) = true ↔
    (s.cring c).list ≠ [] ∧ (s.cring c).active = true ∧
      ((s.cring c).producer + 1) % (s.cring c).size ≠ (s.cring c).consumer ∧ s.device = .running ∧
      s.postq.length < 16 ∧ ∀ i : VectorId, s.held[i] = none := by
  rw [← hasRoom_iff]
  simp [State.canWrite, State.outcomeList, State.listOpen, ringFull, and_assoc]

theorem exec_completionRecordWrite_ring (s : State) (c : CRingId) : exec (.completionRecordWrite (.ring c)) s =
    .next (if s.mayWrite (.ring c) then s.writeRingRecord c else s) := rfl

/-! ### The count of records (R145, R146, R148) -/

/-- One record more reaches the threshold (R146). -/
def CompletionRing.Signals (x : CompletionRing) : Prop := x.intEnable = true ∧ x.threshold ≤ x.unsignalled + 1

theorem countRecord_eq (x : CompletionRing) : x.countRecord.1 = { x with
      unsignalled := if x.intEnable = false then x.unsignalled
        else if x.intEnable = true ∧ x.threshold ≤ x.unsignalled + 1 then 0 else x.unsignalled + 1
      timer := if x.intEnable = true ∧ x.threshold ≤ x.unsignalled + 1 then none
        else if x.intEnable = true ∧ x.unsignalled = 0 ∧ x.holdoff ≠ 0 then some x.holdoff else x.timer } := by
  by_cases hi : x.intEnable = true
  · by_cases ht : x.threshold ≤ x.unsignalled + 1
    · simp [CompletionRing.countRecord, hi, ht]
    · simp [CompletionRing.countRecord, hi, ht]
  · have hoff : x.intEnable = false := Bool.not_eq_true _ ▸ hi
    rw [CompletionRing.countRecord, if_neg hi, if_pos hoff, if_neg fun h => hi h.1, if_neg fun h => hi h.1]

theorem countRecord_signals (x : CompletionRing) : x.countRecord.2 = true ↔ x.Signals := by
  by_cases hi : x.intEnable = true
  · by_cases ht : x.threshold ≤ x.unsignalled + 1
    · simp [CompletionRing.countRecord, CompletionRing.Signals, hi, ht]
    · simp [CompletionRing.countRecord, CompletionRing.Signals, hi, ht]
  · simp [CompletionRing.countRecord, CompletionRing.Signals, hi]

/-- The write of the record itself does not touch the count. -/
theorem recordWritten_signals (x : CompletionRing) : x.recordWritten.countRecord.2 = true ↔ x.Signals :=
  countRecord_signals x.recordWritten

/-! ### What is handed over (R136, R147, R174) -/

/-- The head record of ring `c` is handed over and counted (R136 steps 2 to 4). -/
def State.recordCounted (s : State) (c : CRingId) (bytes : RecordBytes) : State :=
  (s.handOver (.record ((s.cring c).base + BitVec.ofNat 64 (32 * (s.cring c).producer)) bytes)).setCRing c
    (s.cring c).recordWritten.countRecord.1

/-- The head record of ring `c` is handed over, and its message behind it when the count calls for one (R136 steps 2 to
5). -/
def State.recordSent (s : State) (c : CRingId) (bytes : RecordBytes) : State :=
  if (s.cring c).recordWritten.countRecord.2 then (s.recordCounted c bytes).sendMessage (cringVector c)
  else s.recordCounted c bytes

theorem writeRingRecord_eq {s : State} {c : CRingId} {src : Source} {rest : List Source} {bytes : RecordBytes}
    (hl : (s.cring c).list = src :: rest) (hb : s.recordOf (s.cring c).phase src = some bytes) :
    s.writeRingRecord c = (s.recordSent c bytes).deliver src := by
  simp only [State.writeRingRecord, hl, hb]
  rfl

section
variable (s : State) (c : CRingId) (bytes : RecordBytes)

theorem recordSent_silent (h : ¬ (s.cring c).Signals) : s.recordSent c bytes = s.recordCounted c bytes := by
  rw [State.recordSent, if_neg]
  exact fun hs => h ((recordWritten_signals _).1 hs)

/-- The message joins the queue behind the record (R174). -/
theorem recordSent_joins (h : (s.cring c).Signals) (hr : s.postq.length < 15) (hn : ∀ i : VectorId, s.held[i] = none) :
    s.recordSent c bytes = (s.recordCounted c bytes).handOver (.message (s.messageFor (cringVector c))) := by
  rw [State.recordSent, if_pos ((recordWritten_signals _).2 h)]
  refine sendMessage_joins _ _ ?_ hn (.inl ?_)
  · change (s.postq ++ [_]).length < 16
    rw [List.length_append, List.length_singleton]
    omega
  · exact List.append_ne_nil_of_right_ne_nil _ (List.cons_ne_nil _ _)

/-- When the record takes the last place its message is held (R174). -/
theorem recordSent_holds (h : (s.cring c).Signals) (hf : s.postq.length = 15) (hn : ∀ i : VectorId, s.held[i] = none) :
    s.recordSent c bytes = { s.recordCounted c bytes with
      held := s.held.set (cringVector c) (some (s.messageFor (cringVector c))) } := by
  rw [State.recordSent, if_pos ((recordWritten_signals _).2 h)]
  refine State.sendMessage_held _ _ ?_ (hn _)
  refine decide_eq_false ?_
  change ¬ (s.postq ++ [_]).length < 16
  rw [List.length_append, List.length_singleton]
  omega

/-- The one message that is held (R174). -/
theorem getElem_set_held (h : Vector (Option Message) 5) (hn : ∀ i : VectorId, h[i] = none) (v : VectorId) (m : Message)
    (i : VectorId) : (h.set v (some m))[i] = if i = v then some m else none := by
  rw [Fin.getElem_fin, Vector.getElem_set]
  by_cases hi : i = v
  · subst hi; simp
  · rw [if_neg hi, if_neg fun hv => hi (Fin.ext hv.symm)]
    exact hn i

/-- What handing over the record and its message moves: the ring, the queue and the held messages. -/
theorem recordSent_frame (hr : s.postq.length < 16) (hn : ∀ i : VectorId, s.held[i] = none) : ∃ q h,
    s.recordSent c bytes =
      { s.setCRing c (s.cring c).recordWritten.countRecord.1 with postq := q, held := h } := by
  by_cases h : (s.cring c).Signals
  · by_cases hlt : s.postq.length < 15
    · rw [recordSent_joins s c bytes h hlt hn]
      exact ⟨_, _, rfl⟩
    · rw [recordSent_holds s c bytes h (by omega) hn]
      exact ⟨_, _, rfl⟩
  · rw [recordSent_silent s c bytes h]
    exact ⟨_, _, rfl⟩

end

/-! ### The source is freed (R51, R55) -/

/-- The delivery of a source other than the admin context touches the table, the occupancies and the contexts alone. -/
theorem deliver_frame (s : State) {x : Source} (hx : x ≠ .admin) :
    ∃ t o k, s.deliver x = { s with table := t, occupancy := o, contexts := k } := by
  cases x with
  | entry e => exact s.freeEntry_frame e
  | ring r => exact ⟨_, _, _, rfl⟩
  | admin => exact absurd rfl hx

/-- The occupancy of the freed entry's ring falls (R55, R59). -/
theorem occ_freeEntry (s : State) {e : EntryId} {x : HoldEntry} (he : s.entry e = some x) (r : RingId) :
    (s.freeEntry e).occ r = if r = x.origin then s.occ r - 1 else s.occ r := by
  rw [s.freeEntry_some e x he]
  refine (State.occ_setOcc _ x.origin r _).trans ?_
  split
  · next h => subst h; rw [if_pos rfl]
  · next h => rw [if_neg (Ne.symm h)]; rfl

/-- The source of an outcome: an ENDING entry or a reporting context (R111, R140). -/
theorem recordOf_entry {s : State} {e : EntryId} {z : HoldEntry} {res : HoldResult} (phase : Bool)
    (he : s.entry e = some z) (hz : z.state = .ending res) : s.recordOf phase (.entry e) =
      some (formRecord phase (ringSourceCode z.origin) (s.ring z.origin).consumer (z.report res)) := by
  simp only [State.recordOf, he, hz]

theorem recordOf_ring {s : State} {r : RingId} {o : Report} (phase : Bool) (hw : (s.ctx r).work = .reporting o) :
    s.recordOf phase (.ring r) = some (formRecord phase (ringSourceCode r) (s.ring r).consumer o) := by
  simp only [State.recordOf, hw]

/-- Settles O35: the record and its message are handed over, and the source is freed. -/
theorem ringRecordsAreWrittenAndDelivered : Obligations.RingRecordsAreWrittenAndDelivered := by
  refine ⟨?_, fun s c h => ?_⟩
  · intro s c src rest bytes hd x v m next signals record hl hactive hfull hheld hroom hadmin hbefore hsrc
    have hmay : s.mayWrite (.ring c) = true := (s.mayWrite_ring c).2
      ⟨(canWrite_ring_iff s c).2 ⟨by rw [show (s.cring c).list = _ from hl]; nofun, hactive, hfull, hd, hroom, hheld⟩,
        hadmin, hbefore⟩
    have hne : src ≠ .admin := by
      rintro rfl
      obtain ⟨_, _, _, h, -⟩ | ⟨_, _, h, -⟩ := hsrc <;> cases h
    have hrecord : s.recordOf x.phase src = some bytes := by
      obtain ⟨e, z, res, rfl, he, hz, rfl⟩ | ⟨r, o, rfl, hw, rfl⟩ := hsrc
      · exact recordOf_entry _ he hz
      · exact recordOf_ring _ hw
    obtain ⟨u, hu⟩ : ∃ u, u = s.recordSent c bytes := ⟨_, rfl⟩
    have hexec : exec (.completionRecordWrite (.ring c)) s = .next (u.deliver src) := by
      rw [exec_completionRecordWrite_ring, if_pos hmay, writeRingRecord_eq hl hrecord, hu]
    obtain ⟨q, h, hsent⟩ := recordSent_frame s c bytes hroom hheld
    rw [← hu] at hsent
    obtain ⟨t, o, k, hfree⟩ := deliver_frame u hne
    have hpostq : (u.deliver src).postq = u.postq := by rw [hfree]
    have hheld' : (u.deliver src).held = u.held := by rw [hfree]
    have hcring (i : CRingId) : (u.deliver src).cring i =
        if c = i then (s.cring c).recordWritten.countRecord.1 else s.cring i := by
      rw [hfree, hsent]
      exact State.cring_setCRing s c i _
    have hentry (i : EntryId) : u.entry i = s.entry i := by rw [hsent]; rfl
    have hctx (r : RingId) : u.ctx r = s.ctx r := by rw [hsent]; rfl
    have hocc (r : RingId) : u.occ r = s.occ r := by rw [hsent]; rfl
    refine ⟨_, hexec, ?_, fun i hi => by rw [hcring, if_neg (Ne.symm hi)], fun hs => ?_, fun hs hlt => ?_,
      fun hs hlast => ?_, fun e z hx hz => ?_, fun r hx => ?_, ?_⟩
    · rw [hcring, if_pos rfl, countRecord_eq]
      simp only [CompletionRing.recordWritten, show (s.cring c).list = _ from hl]
      rfl
    · rw [hpostq, hheld', hu, recordSent_silent s c bytes hs]
      exact ⟨rfl, rfl⟩
    · rw [hpostq, hheld', hu, recordSent_joins s c bytes hs hlt hheld]
      exact ⟨List.append_assoc _ _ _, rfl⟩
    · rw [hpostq, hheld', hu, recordSent_holds s c bytes hs hlast hheld]
      refine ⟨rfl, fun i => ?_⟩
      exact getElem_set_held s.held hheld (cringVector c) m i
    · subst hx
      have hz' : u.entry e = some z := (hentry e).trans hz
      have hfreed (r : RingId) : (u.deliver (.entry e)).ctx r =
          { s.ctx r with work := (s.ctx r).work.makeReady } := by
        rw [← hctx]
        exact ctx_freeEntry u hz' r
      refine ⟨fun i => ?_, fun r => ?_, fun r q d b hw => by rw [hfreed, hw]; rfl,
        fun r hw => by rw [hfreed, Work.makeReady_of_not_waitEntry hw]⟩
      · rw [← hentry]
        refine (u.entry_freeEntry e i).trans ?_
        simp only [eq_comm]
      · rw [← hocc]
        exact occ_freeEntry u hz' r
    · subst hx
      refine ⟨by rw [← show u.table = s.table by rw [hsent]; rfl]; rfl,
        by rw [← show u.occupancy = s.occupancy by rw [hsent]; rfl]; rfl, fun i => ?_⟩
      change (u.setWork r .empty).ctx i = _
      rw [State.ctx_setWork, hctx, hctx]
      simp only [eq_comm]
    · rw [hfree, hsent]
      rfl
  · have hno : s.mayWrite (.ring c) ≠ true := by
      rw [Ne, s.mayWrite_ring c, canWrite_ring_iff]
      rintro ⟨⟨hl, ha, hf, hd, hr, hh⟩, hadmin, hbefore⟩
      obtain h | h | h | h | h | ⟨i, h⟩ | h | ⟨i, hi, h⟩ := h
      · exact hl h
      · rw [h] at ha; cases ha
      · exact hf h
      · exact h hd
      · omega
      · exact h (hh i)
      · rw [h] at hadmin; cases hadmin
      · rw [hbefore i hi] at h; cases h
    rw [exec_completionRecordWrite_ring, if_neg hno]

end Sys2Proof.Machine
end

section
/-! PROOFS. RESET COMPLETION RING (R133): the outcomes of the ring's list are discarded one after the other, and what
they leave of the table, the occupancies and the contexts (R52, R55, R113). -/

namespace Sys2Proof.Machine

-- One proof at a time: each further thread of the compile takes 1 GB of the check's fixed memory.
set_option Elab.async false

/-! ### One discard and many (R52, R113) -/

/-- The source is a hold entry. -/
def Source.isEntry : Source → Bool
  | .entry _ => true
  | _ => false

theorem Work.makeReady_makeReady (w : Work) : w.makeReady.makeReady = w.makeReady := by cases w <;> rfl

theorem entry_discard (s : State) (x : Source) (e : EntryId) :
    (s.discard x).entry e = if x = .entry e then none else s.entry e := by
  cases x with
  | entry i =>
    refine (s.entry_freeEntry i e).trans ?_
    simp only [Source.entry.injEq]
  | ring r => rfl
  | admin => rfl

theorem entry_discards (l : List Source) (s : State) (e : EntryId) :
    (l.foldl State.discard s).entry e = if .entry e ∈ l then none else s.entry e := by
  induction l generalizing s with
  | nil => rfl
  | cons x xs ih =>
    rw [List.foldl_cons, ih, entry_discard]
    by_cases hx : x = .entry e
    · simp [hx]
    · simp [hx, Ne.symm hx]

theorem countPart_discards (l : List Source) (s : State) (h : s.CountPart) : (l.foldl State.discard s).CountPart := by
  induction l generalizing s with
  | nil => exact h
  | cons x xs ih =>
    refine ih _ ?_
    cases x with
    | entry e => exact h.free e
    | ring r => exact h.congr (fun _ => rfl) fun _ _ => rfl
    | admin => exact h

/-- A discarded context becomes EMPTY, and a freed entry makes waiting contexts ready (R41, R113). -/
theorem ctx_discards (l : List Source) (s : State) (hn : l.Nodup) (hl : ∀ e, .entry e ∈ l → s.entry e ≠ none)
    (r : RingId) : (l.foldl State.discard s).ctx r = { s.ctx r with
      work := if .ring r ∈ l then .empty else if l.any Source.isEntry then (s.ctx r).work.makeReady
        else (s.ctx r).work } := by
  induction l generalizing s with
  | nil => rfl
  | cons x xs ih =>
    obtain ⟨hx, hxs⟩ := List.nodup_cons.1 hn
    have htail (e : EntryId) (he : .entry e ∈ xs) : (s.discard x).entry e ≠ none := by
      rw [entry_discard, if_neg (by rintro rfl; exact hx he)]
      exact hl e (List.mem_cons_of_mem _ he)
    rw [List.foldl_cons, ih _ hxs htail]
    cases x with
    | entry e =>
      obtain ⟨y, hy⟩ := Option.ne_none_iff_exists'.1 (hl e List.mem_cons_self)
      have hctx : (s.discard (.entry e)).ctx r = _ := ctx_freeEntry s hy r
      rw [hctx]
      simp [Source.isEntry, Work.makeReady_makeReady]
    | ring i =>
      have hctx : (s.discard (.ring i)).ctx r = _ := s.ctx_setWork i r .empty
      rw [hctx]
      by_cases hi : i = r
      · subst hi; simp [Work.makeReady]
      · simp [hi, Ne.symm hi, Source.isEntry]
    | admin => simp [State.discard, Source.isEntry]

theorem discards_frame (l : List Source) (s : State) :
    ∃ t o k, l.foldl State.discard s = { s with table := t, occupancy := o, contexts := k } := by
  induction l generalizing s with
  | nil => exact ⟨_, _, _, rfl⟩
  | cons x xs ih =>
    obtain ⟨t, o, k, h⟩ := ih (s.discard x)
    obtain ⟨t', o', k', hx⟩ : ∃ t o k, s.discard x = { s with table := t, occupancy := o, contexts := k } := by
      cases x with
      | entry e => exact s.freeEntry_frame e
      | ring r => exact ⟨_, _, _, rfl⟩
      | admin => exact ⟨_, _, _, rfl⟩
    exact ⟨t, o, k, by rw [List.foldl_cons, h, hx]⟩

/-- The entries that are freed and those that are left are all entries of the ring (R59). -/
theorem occ_discards (l : List Source) (s : State) (h : s.CountPart) (r : RingId) :
    (l.foldl State.discard s).occ r + ((s.entriesOf r).filter (fun e => decide (.entry e ∈ l))).length = s.occ r := by
  have hleft : (l.foldl State.discard s).entriesOf r =
      (s.entriesOf r).filter (fun e => !decide (.entry e ∈ l)) := by
    rw [State.entriesOf, State.entriesOf, List.filter_filter]
    refine List.filter_congr fun e _ => ?_
    rw [entry_discards]
    by_cases he : Source.entry e ∈ l <;> simp [he]
  rw [countPart_discards l s h r, h r, hleft, Nat.add_comm]
  exact (List.length_eq_length_filter_add _).symm

/-! ### The request (R133, R153, R158) -/

/-- The state once an admin request that ends with a status, no count and no value has been taken and has ended (R153,
R154). -/
def State.adminEnds (s : State) (x : Slot) (rest : List (Option Slot)) (st : Status) : State :=
  { s with
    admin := { s.admin with consumer := (s.admin.consumer + 1) % s.admin.size, buffer := rest }
    adminCtx := .reporting ⟨st, slotByte x 0, slotHalf x 4, ⟨false, false, false⟩, none, 0, s.timeBase.setWidth 32⟩
    adminArea := { s.adminArea with list := s.adminArea.list ++ [.admin] } }

section
variable {s : State} {x : Slot} {rest : List (Option Slot)} (hd : s.device = .running) (ha : s.adminCtx = .empty)
  (hb : s.admin.buffer = some x :: rest)
include hd ha hb

/-- The oldest admin record is taken by its own command (R153). -/
theorem takeAdmin_oldest {k : Option AdminKind} (hk : adminKind (slotKind x) = k) (f : State → Slot → State) :
    s.takeAdmin k f = f s.consumeAdmin x := by
  have hold : s.oldestAdmin = some x := by simp [State.oldestAdmin, hd, ha, hb]
  simp only [State.takeAdmin, hold, hk, if_true]

theorem exec_resetCompletionRing (hk : (slotByte x 0).toNat = 0x47) :
    exec .resetCompletionRing s = .next (s.consumeAdmin.resetCRing x) := by
  refine congrArg _ (takeAdmin_oldest hd ha hb ?_ _)
  simp [adminKind, slotKind, hk]

end

theorem endAdmin_consumeAdmin {s : State} {x : Slot} {rest : List (Option Slot)}
    (hb : s.admin.buffer = some x :: rest) (st : Status) :
    s.consumeAdmin.endAdmin x st = s.adminEnds x rest st := by
  simp only [State.endAdmin, State.finishAdmin, State.consumeAdmin, State.adminEnds, hb, List.tail_cons]
  rfl

theorem mappedBusy_iff (s : State) (c : CRingId) : s.mappedBusy c = true ↔
    ∃ r, (s.ring r).config.cring = c ∧ ((s.ring r).state = .active ∨ (s.ring r).state = .draining) := by
  simp [State.mappedBusy]

theorem holdLaw_consumeAdmin {s : State} (h : s.HoldLaw) : s.consumeAdmin.HoldLaw :=
  SameHolds.holdLaw (t := s.consumeAdmin) {} h

/-- Settles O43: the sources of the ring's list are discarded, and the ring is reset. -/
theorem resetCompletionRingDiscardsItsList : Obligations.ResetCompletionRingDiscardsItsList := by
  intro s x rest hd ha hb hk ends
  have hexec := exec_resetCompletionRing hd ha hb hk
  have hends (st : Status) : s.consumeAdmin.endAdmin x st = ends st := endAdmin_consumeAdmin hb st
  refine ⟨fun hsel => ?_, fun c hsel => ?_⟩
  · have hno : cringNumber (slotByte x 8) = none := dif_neg (Nat.not_lt.2 hsel)
    rw [hexec, State.resetCRing, hno]
    exact congrArg _ (hends _)
  intro busy l
  have hc : cringNumber (slotByte x 8) = some c := by
    simp [cringNumber, hsel]
  refine ⟨fun hbusy => ?_, fun hfree hs => ?_⟩
  · have hmapped : s.consumeAdmin.mappedBusy c = true := (mappedBusy_iff s.consumeAdmin c).2 hbusy
    rw [hexec, State.resetCRing, hc]
    dsimp only
    rw [if_pos hmapped]
    exact congrArg _ (hends _)
  · have hmapped : ¬ s.consumeAdmin.mappedBusy c = true := fun h => hfree ((mappedBusy_iff s.consumeAdmin c).1 h)
    obtain ⟨u, hu⟩ : ∃ u, u = l.foldl State.discard s.consumeAdmin := ⟨_, rfl⟩
    have hstep : exec .resetCompletionRing s = .next ((u.setCRing c .reset).endAdmin x .ok) := by
      rw [hexec, State.resetCRing, hc]
      dsimp only
      rw [if_neg hmapped, hu]
      rfl
    have hlaw := holdLaw_consumeAdmin hs
    have hentries (e : EntryId) (he : .entry e ∈ l) : s.consumeAdmin.entry e ≠ none := by
      have := (hlaw.listEntry c e).1 he
      intro hnone
      rw [hnone] at this
      cases this
    have hctx (r : RingId) : u.ctx r = _ := hu ▸ ctx_discards l s.consumeAdmin (hlaw.listNodup c) hentries r
    obtain ⟨t, o, k, hframe⟩ := discards_frame l s.consumeAdmin
    rw [← hu] at hframe
    have hcring (i : CRingId) : ((u.setCRing c .reset).endAdmin x .ok).cring i =
        if c = i then .reset else s.cring i := by
      rw [hframe]
      exact State.cring_setCRing _ c i _
    refine ⟨_, hstep, by rw [hcring, if_pos rfl]; rfl, fun i hi => by rw [hcring, if_neg (Ne.symm hi)],
      fun e => ?_, fun r => ?_, fun r hr => ?_, fun r q d b hw hl => ?_, fun r hr hl => ?_, ?_⟩
    · change u.entry e = _
      rw [hu]
      exact entry_discards l s.consumeAdmin e
    · change u.occ r + _ = _
      rw [hu]
      exact occ_discards l s.consumeAdmin hlaw.occupancyExact r
    · change u.ctx r = _
      rw [hctx, if_pos hr]
      rfl
    · have hring : .ring r ∉ l := by
        intro hr
        have hcode := ((hlaw.listRing c r).1 hr).1
        rw [show (s.consumeAdmin.ctx r).work = _ from hw] at hcode
        cases hcode
      have hany : l.any Source.isEntry = true := by
        obtain ⟨e, he⟩ := hl
        exact List.any_eq_true.2 ⟨_, he, rfl⟩
      change u.ctx r = _
      rw [hctx, if_neg hring, if_pos hany, show (s.consumeAdmin.ctx r).work = _ from hw]
      rfl
    · change u.ctx r = _
      rw [hctx, if_neg hr]
      obtain hl | hl := hl
      · have hany : ¬ l.any Source.isEntry = true := by
          rw [List.any_eq_true]
          rintro ⟨y, hy, hentry⟩
          cases y with
          | entry e => exact hl e hy
          | ring i => cases hentry
          | admin => cases hentry
        rw [if_neg hany]
        rfl
      · have hready : (s.consumeAdmin.ctx r).work.makeReady = (s.consumeAdmin.ctx r).work :=
          Work.makeReady_of_not_waitEntry hl
        rw [hready, ite_self]
        rfl
    · rw [← hends, hframe]
      rfl

end Sys2Proof.Machine
end

section
/-! PROOFS. The microsecond tick (R75, R145, R149, R170): what it does to the clocks, one by one. -/

namespace Sys2Proof.Machine

-- One proof at a time: each further thread of the compile takes 1 GB of the check's fixed memory.
set_option Elab.async false

/-- The time base counts modulo 2^48 (R75). -/
theorem toNat_timeBase_succ (t : Time) : (t + 1).toNat = (t.toNat + 1) % 2 ^ 48 := by
  rw [BitVec.toNat_add]
  rfl

/-- Every outstanding read's count rises, and a free place stays free (R170). -/
theorem place_mapPlaces (s : State) (p : PlaceId) :
    State.place { s with places := s.places.map (fun x => x.map Read.tick) } p = (s.place p).map Read.tick := by
  simp [State.place]

/-- Every completion ring ticks (R145). -/
theorem cring_mapTick (s : State) (c : CRingId) :
    State.cring { s with crings := s.crings.map CompletionRing.tick } c = (s.cring c).tick := by
  simp [State.cring]

/-- Settles O13: the three clocks of a tick, the holdoff timers on both sides of their guard. -/
theorem microsecondTickAdvancesTheClocks : Obligations.MicrosecondTickAdvancesTheClocks := by
  intro s
  refine ⟨_, rfl, toNat_timeBase_succ s.timeBase, place_mapPlaces s, fun hrun c => ?_, fun hstop => ?_, rfl⟩
  · dsimp only
    rw [if_pos hrun]
    exact cring_mapTick s c
  · exact if_neg hstop

end Sys2Proof.Machine
end

section
/-! PROOFS. Claims that end several entries together (R49, R84, R86): what they leave of the table, the lists and the
outcome lists, once for any set of ARMED entries. -/

namespace Sys2Proof.Machine

-- One proof at a time: each further thread of the compile takes 1 GB of the check's fixed memory.
set_option Elab.async false

/-! ### One claim (R49, R53) -/

/-- A claim finds its entry ARMED, or does nothing (R53). -/
theorem claimEnd_armed_or_same (s : State) (st : Status) (e : EntryId) :
    (∃ x, s.entry e = some x ∧ x.isArmed = true) ∨
      ((∀ f, ¬ s.armedWith f e = true) ∧ s.claimEnd st e = s) := by
  by_cases h : ∃ x, s.entry e = some x ∧ x.isArmed = true
  · exact .inl h
  · refine .inr ⟨fun f hf => ?_, claimsEndArmedEntriesAlone.1 s st e fun x he => ?_⟩
    · obtain ⟨x, he, hx, -⟩ := (armedWith_iff ..).1 hf
      exact h ⟨x, he, hx⟩
    · exact Bool.eq_false_iff.2 fun hx => h ⟨x, he, hx⟩

section
variable {s : State} (h : s.HoldLaw) (st : Status) (e : EntryId)
include h

/-- The entry of a claim stands on no watch list after it (R49, R58). -/
theorem watchList_claimEnd (d : CellId) : (s.claimEnd st e).watchList d = (s.watchList d).erase e := by
  obtain ⟨x, he, hx⟩ | ⟨hno, hsame⟩ := claimEnd_armed_or_same s st e
  · obtain ⟨-, -, hself, hother, -⟩ := claimsEndArmedEntriesAlone.2 s st e x h.watchForm he hx
    by_cases hd : d = x.cond.cell
    · rw [hd, hself]
    · have hnot : e ∉ s.watchList d := by
        simp [h.watchExact, State.armedWith, he, Ne.symm hd]
      rw [hother d hd, List.erase_of_not_mem hnot]
  · rw [hsame, List.erase_of_not_mem fun hmem => hno _ ((h.watchExact d e).1 hmem)]

/-- The entry of a claim stands on no deadline list after it (R49, R79). -/
theorem deadlines_claimEnd : (s.claimEnd st e).deadlines = s.deadlines.erase e := by
  obtain ⟨x, he, hx⟩ | ⟨hno, hsame⟩ := claimEnd_armed_or_same s st e
  · obtain ⟨-, -, -, -, hdeadlines, -⟩ := claimsEndArmedEntriesAlone.2 s st e x h.watchForm he hx
    exact hdeadlines
  · rw [hsame, List.erase_of_not_mem fun hmem => hno _ ((h.deadlineExact e).1 hmem)]

/-- An entry that a claim ends joins the list of its completion ring (R49, R134). -/
theorem cring_claimEnd (c : CRingId) : (s.claimEnd st e).cring c = { s.cring c with
    list := (s.cring c).list ++ if s.armedWith (fun x => x.cring = c) e then [.entry e] else [] } := by
  obtain ⟨x, he, hx⟩ | ⟨hno, hsame⟩ := claimEnd_armed_or_same s st e
  · obtain ⟨-, -, -, -, -, hself, hother, -⟩ := claimsEndArmedEntriesAlone.2 s st e x h.watchForm he hx
    by_cases hc : x.cring = c
    · subst hc
      simp [State.armedWith, he, hx, hself]
    · simp [State.armedWith, he, hx, hc, hother c (Ne.symm hc)]
  · rw [hsame, if_neg (hno _), List.append_nil]

end

/-! ### Several claims in one (R49) -/

theorem holdLaw_claimAll {s : State} (h : s.HoldLaw) (st : Status) (es : List EntryId) :
    (s.claimAll st es).HoldLaw := by
  induction es generalizing s with
  | nil => exact h
  | cons e es ih => exact ih (holdLaw_claimEnd h st e)

theorem ring_claimAll (s : State) (st : Status) (es : List EntryId) (r : RingId) :
    (s.claimAll st es).ring r = s.ring r := by
  obtain ⟨_, _, _, _, _, _, hframe⟩ := s.claimAll_frame st es
  rw [hframe]
  rfl

theorem now32_claimEnd (s : State) (st : Status) (e : EntryId) : (s.claimEnd st e).now32 = s.now32 := by
  obtain ⟨_, _, _, _, _, _, hframe⟩ := s.claimEnd_frame st e
  rw [hframe]
  rfl

/-- The ARMED entries among those claimed become ENDING, and every other entry is as it was (R49, R53). -/
theorem entry_claimAll (s : State) (st : Status) (es : List EntryId) (i : EntryId) :
    (s.claimAll st es).entry i =
      if i ∈ es then (s.entry i).map (fun x =>
        if x.isArmed then { x with state := .ending ⟨st, .none, none, s.now32⟩ } else x)
      else s.entry i := by
  induction es generalizing s with
  | nil => rfl
  | cons e es ih =>
    refine (ih (s.claimEnd st e)).trans ?_
    rw [s.entry_claimEnd st e i, now32_claimEnd]
    by_cases hi : e = i
    · subst hi
      cases s.entry e with
      | none => simp
      | some x => cases hx : x.isArmed <;> simp [hx]
    · simp [hi, Ne.symm hi]

theorem erase_eq_filter_ne {l : List EntryId} (hl : l.Nodup) (e : EntryId) :
    l.erase e = l.filter (fun i => decide (i ≠ e)) := by
  rw [hl.erase_eq_filter]
  refine List.filter_congr fun i _ => ?_
  by_cases hi : i = e <;> simp [hi]

section
variable {s : State} (h : s.HoldLaw) (st : Status) (es : List EntryId)
include h

theorem watchList_claimAll (d : CellId) :
    (s.claimAll st es).watchList d = (s.watchList d).filter (fun i => decide (i ∉ es)) := by
  induction es generalizing s with
  | nil => simp [State.claimAll]
  | cons e es ih =>
    refine (ih (holdLaw_claimEnd h st e)).trans ?_
    rw [watchList_claimEnd h, erase_eq_filter_ne (h.watchNodup d), List.filter_filter]
    exact List.filter_congr fun i _ => by simp [Bool.and_comm]

theorem deadlines_claimAll :
    (s.claimAll st es).deadlines = s.deadlines.filter (fun i => decide (i ∉ es)) := by
  induction es generalizing s with
  | nil => simp [State.claimAll]
  | cons e es ih =>
    refine (ih (holdLaw_claimEnd h st e)).trans ?_
    rw [deadlines_claimEnd h, erase_eq_filter_ne h.deadlineNodup, List.filter_filter]
    exact List.filter_congr fun i _ => by simp [Bool.and_comm]

/-- The ended entries join their lists in the order of the claim (R49, R135). -/
theorem cring_claimAll (hes : es.Nodup) (c : CRingId) : (s.claimAll st es).cring c = { s.cring c with
    list := (s.cring c).list ++ (es.filter (s.armedWith fun x => x.cring = c)).map Source.entry } := by
  induction es generalizing s with
  | nil => simp [State.claimAll]
  | cons e es ih =>
    obtain ⟨he, hes⟩ := List.nodup_cons.1 hes
    have hleft : es.filter ((s.claimEnd st e).armedWith fun x => x.cring = c) =
        es.filter (s.armedWith fun x => x.cring = c) := by
      refine List.filter_congr fun i hi => ?_
      have hne : e ≠ i := by rintro rfl; exact he hi
      rw [State.armedWith, s.entry_claimEnd st e i, if_neg hne, State.armedWith]
    refine (ih (holdLaw_claimEnd h st e) hes).trans ?_
    rw [hleft, cring_claimEnd h, List.filter_cons]
    split <;> simp

end

/-! ### The claim on the ARMED entries that satisfy a test (R84, R86) -/

theorem armedWith_eq_any (s : State) (f : HoldEntry → Bool) (e : EntryId) :
    s.armedWith f e = (s.entry e).any (fun x => x.isArmed && f x) := by
  cases h : s.entry e <;> simp [State.armedWith, h]

theorem mem_armedEntries (s : State) (f : HoldEntry → Bool) (e : EntryId) :
    e ∈ s.armedEntries f ↔ s.armedWith f e = true := by
  simp [State.armedEntries]

theorem nodup_armedEntries (s : State) (f : HoldEntry → Bool) : (s.armedEntries f).Nodup :=
  (List.nodup_finRange 256).filter _

/-- In `t` the entries that `hit` names have ended together with status `st` as they stood in `s`, and have left their
watch lists and the deadline list; every other entry and the order of the lists are kept. -/
structure EndedTogether (s t : State) (st : Status) (hit : EntryId → Bool) : Prop where
  entry : ∀ e, t.entry e = if hit e then (s.entry e).map (fun x => { x with
      state := .ending ⟨st, ⟨false, false, false⟩, none, s.timeBase.setWidth 32⟩ })
    else s.entry e
  watchList : ∀ d, t.watchList d = (s.watchList d).filter (fun e => !hit e)
  deadlines : t.deadlines = s.deadlines.filter (fun e => !hit e)

theorem EndedTogether.congr {s t u : State} {st : Status} {hit : EntryId → Bool} (h : EndedTogether s t st hit)
    (htable : u.table = t.table := by rfl) (hwatch : u.watch = t.watch := by rfl)
    (hdeadlines : u.deadlines = t.deadlines := by rfl) : EndedTogether s u st hit where
  entry e := by rw [State.entry, htable]; exact h.entry e
  watchList d := by rw [State.watchList, hwatch]; exact h.watchList d
  deadlines := hdeadlines.trans h.deadlines

section
variable {s : State} (h : s.HoldLaw) (st : Status) (f : HoldEntry → Bool)
include h

theorem endedTogether_claimArmed : EndedTogether s (s.claimAll st (s.armedEntries f)) st (s.armedWith f) where
  entry e := by
    simp only [entry_claimAll, mem_armedEntries]
    split
    · next hf =>
      obtain ⟨x, he, hx, -⟩ := (armedWith_iff ..).1 hf
      rw [he, Option.map_some, if_pos hx]
      rfl
    · rfl
  watchList d := by
    rw [watchList_claimAll h]
    exact List.filter_congr fun e _ => by simp [mem_armedEntries]
  deadlines := by
    rw [deadlines_claimAll h]
    exact List.filter_congr fun e _ => by simp [mem_armedEntries]

/-- The ended entries join their lists in ascending entry number (R49, R135). -/
theorem cring_claimArmed (c : CRingId) : (s.claimAll st (s.armedEntries f)).cring c = { s.cring c with
    list := (s.cring c).list ++
      ((s.armedEntries f).filter (fun e => (s.entry e).any (fun x => x.cring = c))).map Source.entry } := by
  have hsame : (s.armedEntries f).filter (s.armedWith fun x => x.cring = c) =
      (s.armedEntries f).filter (fun e => (s.entry e).any (fun x => x.cring = c)) := by
    refine List.filter_congr fun e he => ?_
    obtain ⟨x, hx, harmed, -⟩ := (armedWith_iff ..).1 ((mem_armedEntries ..).1 he)
    simp [State.armedWith, hx, harmed]
  rw [cring_claimAll h st _ (nodup_armedEntries s f), hsame]

end

end Sys2Proof.Machine
end

section
/-! PROOFS. CANCEL (R83, R84, R135): its claim, and its own outcome behind those of the entries. -/

namespace Sys2Proof.Machine

-- One proof at a time: each further thread of the compile takes 1 GB of the check's fixed memory.
set_option Elab.async false

/-- A CANCEL that no fence holds back makes its claim as it is taken (R84, R110, R115). -/
theorem exec_cancel {s : State} {r : RingId} {x : Slot} {rest : List (Option Slot)} (hd : s.device = .running)
    (ha : (s.ring r).state = .active) (hw : (s.ctx r).work = .empty) (he : (s.ctx r).event = none)
    (hb : (s.ring r).buffer = some x :: rest) (hk : (slotByte x 0).toNat = 6)
    (hf : (slotByte x 1).getLsbD 0 = false ∨ s.armedCount r = 0) :
    exec (.cancel r) s =
      .next ((s.consumeSlots r 1).runCancel r (slotHeader x) (slotHalf x 32) (slotHalf x 48)) := by
  have hkind : requestKind (slotKind x) = some .cancel := by simp [requestKind, slotKind, hk]
  have hvalid : validateRequest (s.ring r).config x none = .ok (.cancel (slotHalf x 32) (slotHalf x 48)) := by
    simp [validateRequest, hkind]
  have hopen : ¬ ((slotHeader x).fence && decide ((s.consumeSlots r 1).armedCount r ≠ 0)) = true := by
    change ¬ ((slotByte x 1).getLsbD 0 && decide (s.armedCount r ≠ 0)) = true
    obtain hf | hf := hf
    · rw [hf]; nofun
    · simp [hf]
  refine congrArg _ ((takeKind_oldest s (oldestSlot_eq s hd ha hw he hb) hkind).trans ?_)
  simp only [State.takeRecord, hvalid, State.fenceOrStart, if_neg hopen, State.startRequest]

theorem consumeSlots_one {s : State} {r : RingId} {x : Option Slot} {rest : List (Option Slot)}
    (hb : (s.ring r).buffer = x :: rest) : s.consumeSlots r 1 = s.setRing r { s.ring r with
      consumer := ((s.ring r).consumer + 1) % (s.ring r).config.size, buffer := rest } := by
  simp [State.consumeSlots, hb]

theorem holdLaw_consumeSlots {s : State} (h : s.HoldLaw) (r : RingId) (n : Nat) : (s.consumeSlots r n).HoldLaw :=
  (sameHolds_setRing s r _).holdLaw h

/-- An entry that a cancel over the rings `rs` ends while it is ARMED: its ring and its masked tag match (R84, R86). -/
def HoldEntry.cancelledBy (rs : List RingId) (value mask : BitVec 16) (x : HoldEntry) : Bool :=
  rs.contains x.origin && tagMatches value mask x.tag

theorem cancelMatches_eq (s : State) (rs : List RingId) (value mask : BitVec 16) :
    s.cancelMatches rs value mask = s.armedEntries (HoldEntry.cancelledBy rs value mask) := rfl

theorem armedWith_cancelledBy (s : State) (rs : List RingId) (value mask : BitVec 16) (e : EntryId) :
    s.armedWith (HoldEntry.cancelledBy rs value mask) e = (s.entry e).any (fun z =>
      z.isArmed && decide (z.origin ∈ rs) && decide ((z.tag &&& mask) = (value &&& mask))) := by
  simp only [armedWith_eq_any, Bool.and_assoc, HoldEntry.cancelledBy, List.contains_eq_mem, tagMatches]

/-- A report is all that the end of a request adds to the outcome lists (R111, R143). -/
theorem cring_finish_ok (s : State) (r : RingId) (quiet : Bool) (o : Report) (ho : o.status = .ok) :
    ((s.finish r quiet o).cring (s.ring r).config.cring).list =
      (s.cring (s.ring r).config.cring).list ++ if quiet then [] else [.ring r] := by
  cases quiet with
  | true => rw [s.finish_quiet r o ho]; exact (List.append_nil _).symm
  | false => rw [s.finish_reported r false o (.inl rfl), State.cring_joinList, if_pos rfl]; rfl

/-- Settles O25: the claim on the matching entries of the ring, then the CANCEL's own outcome. -/
theorem cancelEndsItsRingsMatchingEntries : Obligations.CancelEndsItsRingsMatchingEntries := by
  intro s r x rest hs hd ha hw he hb hk hf hit es now c s1 s2
  have hs1 : s1 = s.consumeSlots r 1 := (consumeSlots_one hb).symm
  have hlaw : s1.HoldLaw := hs1 ▸ holdLaw_consumeSlots hs r 1
  obtain ⟨f, hfdef⟩ : ∃ f, f = HoldEntry.cancelledBy [r] (slotHalf x 32) (slotHalf x 48) := ⟨_, rfl⟩
  have hhit : s1.armedWith f = hit := by
    funext e
    rw [hfdef, armedWith_cancelledBy]
    simp only [List.mem_singleton]
    rfl
  have hes : s1.armedEntries f = es := by rw [State.armedEntries, hhit]
  have hs2 : s1.claimAll .cancelled (s1.armedEntries f) = s2 := by rw [hes]; rfl
  obtain ⟨o, ho⟩ : ∃ o : Report, o = ⟨.ok, 6, slotHalf x 4, ⟨false, false, false⟩, none, es.length, now⟩ := ⟨_, rfl⟩
  have hok : o.status = .ok := by rw [ho]
  have hcode : slotByte x 0 = 6 := BitVec.eq_of_toNat_eq hk
  have hexec : exec (.cancel r) s = .next (s2.finish r ((slotByte x 1).getLsbD 1) o) := by
    rw [exec_cancel hd ha hw he hb hk hf, ← hs1, ho, ← hs2, ← hes, hfdef, ← hcode]
    rfl
  have hring : (s2.ring r).config.cring = c := by
    rw [← hs2, ring_claimAll, State.ring_setRing_self]
  have hctx (i : RingId) : s2.ctx i = s.ctx i := by
    rw [← hs2, ctx_claimAll]
    rfl
  have hended := endedTogether_claimArmed hlaw .cancelled f
  rw [hs2, hhit] at hended
  obtain ⟨_, _, hend⟩ := s2.finish_frame r ((slotByte x 1).getLsbD 1) o
  obtain ⟨hentry, hwatch, hdeadlines⟩ :
      EndedTogether s1 (s2.finish r ((slotByte x 1).getLsbD 1) o) .cancelled hit := by
    rw [hend]
    exact hended.congr
  obtain ⟨_, _, _, _, _, _, hclaim⟩ := s1.claimAll_frame .cancelled (s1.armedEntries f)
  refine ⟨_, hexec, fun hq => ?_, fun hq => ?_, hentry, hwatch, hdeadlines, fun hmapped => ?_, ?_, ?_, fun i hi => ?_⟩
  · rw [hq, s2.finish_quiet r o hok]
    exact s2.setWork_self r .empty (by rw [hctx, hw])
  · rw [hq, s2.finish_reported r false o (.inl rfl), hring, ho]
  · have hall : es.filter (fun e => (s1.entry e).any (fun z => z.cring = c)) = es := by
      refine List.filter_eq_self.2 fun e hmem => ?_
      obtain ⟨z, hz, -, hmatch⟩ := (armedWith_iff ..).1 ((mem_armedEntries s1 f e).1 (hes ▸ hmem))
      have horigin : z.origin = r := by
        rw [hfdef] at hmatch
        simp only [HoldEntry.cancelledBy, Bool.and_eq_true, List.contains_eq_mem, List.mem_singleton,
          decide_eq_true_eq] at hmatch
        exact hmatch.1
      rw [hz, Option.any_some, decide_eq_true_eq]
      exact hmapped e z hz horigin
    have hlist := cring_finish_ok s2 r ((slotByte x 1).getLsbD 1) o hok
    rw [hring] at hlist
    rw [hlist, ← hs2, cring_claimArmed hlaw, hes, hall]
    rfl
  · rw [hend, ← hs2, hclaim]
    rfl
  · rw [hend, ← hs2, hclaim]
    rfl
  · rw [ctx_finish_ne s2 _ o hi, hctx]

end Sys2Proof.Machine
end

section
/-! PROOFS. CANCEL HOLDS (R86, R115, R135, R158): the claim on the matching entries of the selected rings, the ends of
their matching waiting holds, and the opening of fences. -/

namespace Sys2Proof.Machine

-- One proof at a time: each further thread of the compile takes 1 GB of the check's fixed memory.
set_option Elab.async false

/-! ### The end of waiting holds (R86 step 2) -/

/-- The work of a context whose waiting hold has ended CANCELLED (R86). -/
def Work.cancelWaiting (t : BitVec 32) : Work → Work
  | .waitEntry q _ _ => .reporting (q.header.report .cancelled .none none 0 t)
  | w => w

/-- The context waits in WAIT_ENTRY (Table 5-4). -/
def Work.isWaiting : Work → Bool
  | .waitEntry _ _ _ => true
  | _ => false

theorem Work.cancelWaiting_cancelWaiting (t u : BitVec 32) (w : Work) :
    (w.cancelWaiting t).cancelWaiting u = w.cancelWaiting t := by cases w <;> rfl

theorem Work.cancelWaiting_of_not_waiting {w : Work} (h : w.isWaiting = false) (t : BitVec 32) :
    w.cancelWaiting t = w := by
  cases w with
  | waitEntry q d b => cases h
  | empty | waitFence | running | loading | reporting => rfl

theorem isWaiting_of_waitingMatch (s : State) {value mask : BitVec 16} {r : RingId}
    (h : s.waitingMatch value mask r = true) : (s.ctx r).work.isWaiting = true := by
  unfold State.waitingMatch at h
  split at h
  · next q d b hw => rw [hw]; rfl
  · cases h

/-- A context that waits reports its hold CANCELLED, QUIET or not; any other is left alone (R86, R143). -/
theorem cancelWaiting_eq (s : State) (r : RingId) : s.cancelWaiting r =
    if (s.ctx r).work.isWaiting then
      (s.setWork r ((s.ctx r).work.cancelWaiting s.now32)).joinList (s.ring r).config.cring (.ring r)
    else s := by
  unfold State.cancelWaiting
  split
  · next q d b hw =>
    rw [hw]
    exact s.finish_reported r _ _ (.inr nofun)
  · next hno =>
    rw [if_neg]
    intro hwait
    cases hw : (s.ctx r).work with
    | waitEntry q d b => exact hno q d b hw
    | empty | waitFence | running | loading | reporting => rw [hw] at hwait; cases hwait

theorem cancelWaiting_frame (s : State) (r : RingId) :
    ∃ k l, s.cancelWaiting r = { s with contexts := k, crings := l } := by
  rw [cancelWaiting_eq]
  split
  · exact ⟨_, _, rfl⟩
  · exact ⟨_, _, rfl⟩

theorem ctx_cancelWaiting (s : State) (i r : RingId) : (s.cancelWaiting i).ctx r =
    if i = r then { s.ctx r with work := (s.ctx r).work.cancelWaiting s.now32 } else s.ctx r := by
  rw [cancelWaiting_eq]
  split
  · exact (s.ctx_setWork i r _).trans (by split <;> simp_all)
  · next hwait =>
    split
    · next hi =>
      subst hi
      rw [Work.cancelWaiting_of_not_waiting (Bool.eq_false_iff.2 hwait)]
    · rfl

/-- A hold that ends so joins the list of its ring (R86, R134). -/
theorem cring_cancelWaiting (s : State) {r : RingId} (hr : (s.ctx r).work.isWaiting = true) (c : CRingId) :
    (s.cancelWaiting r).cring c = { s.cring c with
      list := (s.cring c).list ++ if (s.ring r).config.cring = c then [.ring r] else [] } := by
  rw [cancelWaiting_eq, if_pos hr, State.cring_joinList]
  split
  · next hc => subst hc; rfl
  · rw [List.append_nil]; rfl

theorem cancelWaitings_frame (ws : List RingId) (s : State) :
    ∃ k l, ws.foldl State.cancelWaiting s = { s with contexts := k, crings := l } := by
  induction ws generalizing s with
  | nil => exact ⟨_, _, rfl⟩
  | cons r ws ih =>
    obtain ⟨k, l, h⟩ := ih (s.cancelWaiting r)
    obtain ⟨_, _, hr⟩ := cancelWaiting_frame s r
    exact ⟨k, l, by rw [List.foldl_cons, h, hr]⟩

theorem ctx_cancelWaitings (ws : List RingId) (s : State) (r : RingId) : (ws.foldl State.cancelWaiting s).ctx r =
    if r ∈ ws then { s.ctx r with work := (s.ctx r).work.cancelWaiting s.now32 } else s.ctx r := by
  induction ws generalizing s with
  | nil => rfl
  | cons i ws ih =>
    have hnow : (s.cancelWaiting i).now32 = s.now32 := by
      obtain ⟨_, _, h⟩ := cancelWaiting_frame s i
      rw [h]
      rfl
    rw [List.foldl_cons, ih, ctx_cancelWaiting, hnow]
    by_cases hi : i = r
    · subst hi; simp [Work.cancelWaiting_cancelWaiting]
    · simp [hi, Ne.symm hi]

/-- The ended holds join their lists in the order in which they end (R86, R135). -/
theorem cring_cancelWaitings (ws : List RingId) (s : State) (hn : ws.Nodup)
    (hws : ∀ r ∈ ws, (s.ctx r).work.isWaiting = true) (c : CRingId) :
    (ws.foldl State.cancelWaiting s).cring c = { s.cring c with
      list := (s.cring c).list ++ (ws.filter (fun r => (s.ring r).config.cring = c)).map Source.ring } := by
  induction ws generalizing s with
  | nil => simp
  | cons i ws ih =>
    obtain ⟨hi, hn⟩ := List.nodup_cons.1 hn
    have hleft (r : RingId) (hr : r ∈ ws) : ((s.cancelWaiting i).ctx r).work.isWaiting = true := by
      rw [ctx_cancelWaiting, if_neg (by rintro rfl; exact hi hr)]
      exact hws r (List.mem_cons_of_mem _ hr)
    have hring (r : RingId) : (s.cancelWaiting i).ring r = s.ring r := by
      obtain ⟨_, _, h⟩ := cancelWaiting_frame s i
      rw [h]
      rfl
    rw [List.foldl_cons, ih _ hn hleft, cring_cancelWaiting s (hws i List.mem_cons_self), List.filter_cons]
    simp only [hring, List.append_assoc]
    split <;> simp_all

/-! ### The request (R86, R158) -/

theorem exec_cancelHolds {s : State} {x : Slot} {rest : List (Option Slot)} (hd : s.device = .running)
    (ha : s.adminCtx = .empty) (hb : s.admin.buffer = some x :: rest) (hk : (slotByte x 0).toNat = 0x48) :
    exec .cancelHolds s = .next (s.consumeAdmin.cancelHoldsRequest x) := by
  refine congrArg _ (takeAdmin_oldest hd ha hb ?_ _)
  simp [adminKind, slotKind, hk]

/-- The rings that a selector selects (Table 11-3). -/
def selectedRings (b : Byte) : List RingId := (List.finRange 8).filter (fun r => b.toNat = r.val || b.toNat = 0xFF)

theorem filter_eq_ring (r : RingId) : (List.finRange 8).filter (fun i => r.val = i.val) = [r] := by
  revert r
  decide

theorem ringSelector_selected {b : Byte} (h : b.toNat < 8 ∨ b.toNat = 0xFF) :
    ringSelector b = some (selectedRings b) := by
  by_cases hall : b = 0xFF
  · subst hall
    rfl
  · have hne : b.toNat ≠ 0xFF := fun he => hall (BitVec.eq_of_toNat_eq he)
    have hlt : b.toNat < 8 := h.resolve_right hne
    rw [ringSelector, if_neg hall, ringNumber, dif_pos hlt, Option.map_some, ← filter_eq_ring ⟨b.toNat, hlt⟩]
    simp [selectedRings, hne]

theorem ringSelector_none {b : Byte} (h : 8 ≤ b.toNat) (hne : b.toNat ≠ 0xFF) : ringSelector b = none := by
  have hall : b ≠ 0xFF := by rintro rfl; exact hne rfl
  rw [ringSelector, if_neg hall, ringNumber, dif_neg (Nat.not_lt.2 h), Option.map_none]

/-- An admin request ends in the same way whatever its work touched elsewhere (R154). -/
theorem endAdmin_eq {s t : State} (hnow : t.now32 = s.now32) (harea : t.adminArea = s.adminArea) (x : Slot)
    (st : Status) (n : Nat) : t.endAdmin x st n = { t with
      adminCtx := .reporting ⟨st, slotByte x 0, slotHalf x 4, ⟨false, false, false⟩, none, n, s.now32⟩
      adminArea := { s.adminArea with list := s.adminArea.list ++ [.admin] } } := by
  rw [← hnow, ← harea]
  rfl

/-- A cancel over several rings touches the table, the lists of entries and of outcomes, the scan and the contexts
alone. -/
theorem cancelRings_frame (s : State) (rs : List RingId) (value mask : BitVec 16) :
    ∃ t w k x l c y, s.cancelRings rs value mask =
      { s with table := t, watch := w, wakeQueue := k, scan := x, deadlines := l, crings := c, contexts := y } := by
  obtain ⟨_, _, _, _, _, _, hclaim⟩ := s.claimAll_frame .cancelled (s.cancelMatches rs value mask)
  obtain ⟨_, _, hholds⟩ := cancelWaitings_frame (rs.filter (s.waitingMatch value mask))
    (s.claimAll .cancelled (s.cancelMatches rs value mask))
  obtain ⟨t, w, k, x, l, c, y, hfences⟩ := State.releaseFences_frame
    ((rs.filter (s.waitingMatch value mask)).foldl State.cancelWaiting
      (s.claimAll .cancelled (s.cancelMatches rs value mask))) rs
  exact ⟨t, w, k, x, l, c, y, by rw [State.cancelRings, hfences, hholds, hclaim]⟩

/-- Over one ring or all rings the request ends OK once the cancel is done, with the count of what the cancel ends
(R86, R158). -/
theorem cancelHoldsRequest_selected (s : State) {x : Slot} {rs : List RingId} {value mask : BitVec 16}
    (hsel : (slotByte x 8).toNat < 8 ∨ (slotByte x 8).toNat = 0xFF) (hrs : selectedRings (slotByte x 8) = rs)
    (hvalue : slotHalf x 32 = value) (hmask : slotHalf x 48 = mask) :
    s.cancelHoldsRequest x = { s.cancelRings rs value mask with
      adminCtx := .reporting ⟨.ok, slotByte x 0, slotHalf x 4, ⟨false, false, false⟩, none,
        (s.cancelMatches rs value mask).length + (rs.filter (s.waitingMatch value mask)).length, s.now32⟩
      adminArea := { s.adminArea with list := s.adminArea.list ++ [.admin] } } := by
  subst hrs hvalue hmask
  rw [State.cancelHoldsRequest, ringSelector_selected hsel]
  obtain ⟨_, _, _, _, _, _, _, hframe⟩ :=
    cancelRings_frame s (selectedRings (slotByte x 8)) (slotHalf x 32) (slotHalf x 48)
  refine endAdmin_eq ?_ ?_ x .ok _
  · rw [hframe]; rfl
  · rw [hframe]

/-- Settles O44: the claim, the waiting holds and the fences, one after the other, and what the first two leave. -/
theorem cancelHoldsReachesEntriesAndWaitingHolds : Obligations.CancelHoldsReachesEntriesAndWaitingHolds := by
  intro s x rest hd ha hb hk taken ends sel now rs matching hit waits es ws claimed u
  have htaken : s.consumeAdmin = taken := by simp [State.consumeAdmin, hb, taken]
  have hexec : exec .cancelHolds s = .next (taken.cancelHoldsRequest x) := htaken ▸ exec_cancelHolds hd ha hb hk
  refine ⟨fun hsel hne => ?_, fun hsel => ?_⟩
  · rw [hexec, State.cancelHoldsRequest, ringSelector_none hsel hne]
    exact congrArg _ (endAdmin_eq (s := s) (t := taken) rfl rfl x .badRequest 0)
  obtain ⟨value, hvalue⟩ : ∃ value, slotHalf x 32 = value := ⟨_, rfl⟩
  obtain ⟨mask, hmask⟩ : ∃ mask, slotHalf x 48 = mask := ⟨_, rfl⟩
  obtain ⟨f, hfdef⟩ : ∃ f, f = HoldEntry.cancelledBy rs value mask := ⟨_, rfl⟩
  have hhit : taken.armedWith f = hit := by
    funext e
    rw [hfdef, armedWith_cancelledBy, ← hvalue, ← hmask]
    rfl
  have hes : taken.armedEntries f = es := by rw [State.armedEntries, hhit]
  have hmatches : taken.cancelMatches rs value mask = es := by rw [cancelMatches_eq, ← hfdef, hes]
  have hclaimed : taken.claimAll .cancelled (taken.armedEntries f) = claimed := by rw [hes]; rfl
  have hmem (r : RingId) : r ∈ ws ↔ waits r = true := by simp [ws]
  have hwaits (r : RingId) : waits r = (decide (r ∈ rs) && taken.waitingMatch value mask r) := by
    change _ = (decide (r ∈ rs) && s.waitingMatch value mask r)
    subst hvalue hmask
    simp only [waits, State.waitingMatch]
    cases (s.ctx r).work with
    | waitEntry q d b => rfl
    | empty | waitFence | running | loading | reporting => exact (Bool.and_false _).symm
  have hwaiting (r : RingId) (hr : waits r = true) : (s.ctx r).work.isWaiting = true := by
    rw [hwaits, Bool.and_eq_true] at hr
    exact isWaiting_of_waitingMatch s hr.2
  have hws : rs.filter (taken.waitingMatch value mask) = ws := by
    rw [List.filter_filter]
    refine List.filter_congr fun r _ => ?_
    rw [hwaits, Bool.and_comm]
    simp [rs]
  have hrun : taken.cancelRings rs value mask = rs.foldl State.releaseFence u := by
    rw [State.cancelRings, hws, hmatches]
    rfl
  obtain ⟨_, _, _, _, _, _, hclaim⟩ := taken.claimAll_frame .cancelled (taken.armedEntries f)
  rw [hclaimed] at hclaim
  have hu : ws.foldl State.cancelWaiting claimed = u := rfl
  obtain ⟨_, _, hholds⟩ := cancelWaitings_frame ws claimed
  rw [hu] at hholds
  have hctx (r : RingId) : claimed.ctx r = s.ctx r := by rw [hclaim]; rfl
  have huctx (r : RingId) : u.ctx r =
      if r ∈ ws then { s.ctx r with work := (s.ctx r).work.cancelWaiting now } else s.ctx r := by
    have hnow : claimed.now32 = now := by rw [hclaim]; rfl
    rw [← hu, ctx_cancelWaitings, hctx, hnow]
  refine ⟨?_, by rw [hholds], by rw [hholds], fun hs => ?_⟩
  · rw [hexec, cancelHoldsRequest_selected taken hsel (rs := rs) rfl hvalue hmask, hmatches, hws, hrun]
    rfl
  have hlaw : taken.HoldLaw := htaken ▸ holdLaw_consumeAdmin hs
  have hended := endedTogether_claimArmed hlaw .cancelled f
  rw [hclaimed, hhit] at hended
  obtain ⟨hentry, hwatch, hdeadlines⟩ : EndedTogether taken u .cancelled hit := by
    rw [hholds]
    exact hended.congr
  refine ⟨hentry, hwatch, hdeadlines, fun r q d b hw hr => ?_, fun r hr => ?_, fun c => ?_, ?_⟩
  · rw [huctx, if_pos ((hmem r).2 hr), hw]
    rfl
  · rw [huctx, if_neg (by rw [hmem, hr]; nofun)]
  · have hring (r : RingId) : claimed.ring r = s.ring r := by rw [hclaim]; rfl
    have hentries := cring_claimArmed hlaw .cancelled f c
    rw [hclaimed, hes] at hentries
    rw [← hu, cring_cancelWaitings ws claimed ((List.nodup_finRange 8).filter _)
      (fun r hr => by rw [hctx]; exact hwaiting r ((hmem r).1 hr)) c, hentries]
    simp only [hring]
    rfl
  · rw [hholds, hclaim]

end Sys2Proof.Machine
end

section
/-! PROOFS. The request rings (R92 to R97, R100 to R105, R108, R109): the moves that one command may make in a ring,
each of which keeps the law of its indices (R102), and that no command does anything else to a ring. -/

namespace Sys2Proof.Machine

-- One proof at a time: each further thread of the compile takes 1 GB of the check's fixed memory.
set_option Elab.async false

/-! ### Distances on a ring -/

theorem add_mod_of_lt {a b size : Nat} (ha : a < size) (hb : b < size) :
    (a + b) % size = if a + b < size then a + b else a + b - size := by
  split
  · next h => exact Nat.mod_eq_of_lt h
  · next h => rw [Nat.mod_eq_sub_mod (Nat.not_lt.1 h), Nat.mod_eq_of_lt (by omega)]

theorem ringDistance_eq {a b size : Nat} (ha : a < size) (hb : b < size) :
    ringDistance a b size = if b ≤ a then a - b else a + size - b := by
  unfold ringDistance
  split
  · rw [show a + size - b = a - b + size by omega, Nat.add_mod_right, Nat.mod_eq_of_lt (by omega)]
  · exact Nat.mod_eq_of_lt (by omega)

theorem ringDistance_lt {a b size : Nat} (hs : 0 < size) : ringDistance a b size < size := Nat.mod_lt _ hs

/-- An index that has moved up by `n` stands `n` past where it stood. -/
theorem ringDistance_moved {c n size : Nat} (hc : c < size) (hn : n < size) :
    ringDistance ((c + n) % size) c size = n := by
  rw [ringDistance_eq (Nat.mod_lt _ (by omega)) hc, add_mod_of_lt hc hn]
  split <;> split <;> omega

/-- What lies before `p` shrinks by `n` when the index behind it moves up by `n`. -/
theorem ringDistance_from_moved {p c n size : Nat} (hp : p < size) (hc : c < size) (hn : n ≤ ringDistance p c size) :
    ringDistance p ((c + n) % size) size = ringDistance p c size - n := by
  have hlt : n < size := Nat.lt_of_le_of_lt hn (ringDistance_lt (by omega))
  rw [ringDistance_eq hp hc] at hn ⊢
  rw [ringDistance_eq hp (Nat.mod_lt _ (by omega)), add_mod_of_lt hc hlt]
  split at hn <;> split <;> split <;> omega

/-! ### The law of one ring (R92, R102) -/

/-- What `State.RingLaw` asks of each ring. -/
def RequestRing.Lawful (x : RequestRing) : Prop := x.Blank ∨ (x.state ≠ .unconfigured ∧ x.Configured)

theorem RequestRing.Blank.state_eq {x : RequestRing} (h : x.Blank) : x.state = .unconfigured :=
  congrArg RequestRing.state h

theorem RequestRing.Blank.buffer_eq {x : RequestRing} (h : x.Blank) : x.buffer = [] := congrArg RequestRing.buffer h

theorem RequestRing.Lawful.configured {x : RequestRing} (h : x.Lawful) (hx : x.state ≠ .unconfigured) : x.Configured :=
  h.elim (fun hb => absurd hb.state_eq hx) And.right

/-- A ring holds at least 16 slots (R156). -/
theorem RingConfig.InRange.sixteen_le {g : RingConfig} (h : g.InRange) : 16 ≤ g.size := by
  have hs := h.size
  simp only [ringSizeValid, Bool.or_eq_true, decide_eq_true_eq] at hs
  omega

theorem ringSizeValid_iff (n : Nat) :
    ringSizeValid n = true ↔ n ∈ [16, 32, 64, 128, 256, 512, 1024, 2048, 4096] := by
  simp [ringSizeValid, or_assoc]

/-- The items of a CONFIGURE REQUEST RING lie in the ranges of Table 5-1 (R156). -/
def RingItemsInRange (x : Slot) : Prop :=
  (slotQuad x 16).toNat % 64 = 0 ∧ (slotHalf x 12).toNat ∈ [16, 32, 64, 128, 256, 512, 1024, 2048, 4096] ∧
    (slotByte x 9).toNat ≤ 3 ∧ 1 ≤ (slotByte x 10).toNat ∧ (slotByte x 10).toNat ≤ 8 ∧
    (slotHalf x 24).toNat ≤ 4095 ∧ 1 ≤ (slotHalf x 26).toNat ∧ (slotHalf x 26).toNat ≤ 4096 ∧
    (slotHalf x 24).toNat + (slotHalf x 26).toNat ≤ 4096 ∧ (slotHalf x 14).toNat ≤ 256

theorem cringNumber_eq_some_iff (b : Byte) (c : CRingId) : cringNumber b = some c ↔ b.toNat = c.val := by
  unfold cringNumber
  split
  · exact Option.some_inj.trans Fin.ext_iff
  · next h => exact ⟨nofun, fun hc => absurd c.isLt (hc ▸ h)⟩

theorem decodeRingConfig_eq_some_iff (x : Slot) (g : RingConfig) : decodeRingConfig x = some g ↔
    RingItemsInRange x ∧ (slotByte x 9).toNat = g.cring.val ∧
      g = ⟨slotQuad x 16, (slotHalf x 12).toNat, g.cring, (slotByte x 10).toNat, (slotHalf x 24).toNat,
        (slotHalf x 26).toNat, (slotHalf x 14).toNat⟩ := by
  unfold decodeRingConfig RingItemsInRange
  dsimp only
  split
  · next hc =>
    refine ⟨nofun, fun ⟨_, h, _⟩ => ?_⟩
    rw [(cringNumber_eq_some_iff _ _).2 h] at hc
    cases hc
  · next c hc =>
    have hb := (cringNumber_eq_some_iff _ _).1 hc
    have hlt := c.isLt
    split
    · next hin =>
      simp only [Bool.and_eq_true, decide_eq_true_eq, ringSizeValid_iff, and_assoc] at hin
      obtain ⟨hbase, hsize, hrest⟩ := hin
      constructor
      · rintro ⟨⟩
        exact ⟨⟨hbase, hsize, by omega, hrest⟩, hb, rfl⟩
      · rintro ⟨-, hg, hitems⟩
        rw [Fin.ext (hb.symm.trans hg), ← hitems]
    · next hout =>
      simp only [Bool.and_eq_true, decide_eq_true_eq, ringSizeValid_iff, and_assoc] at hout
      exact ⟨nofun, fun ⟨⟨hbase, hsize, _, hrest⟩, _⟩ => absurd ⟨hbase, hsize, hrest⟩ hout⟩

theorem inRange_of_decode {x : Slot} {g : RingConfig} (h : decodeRingConfig x = some g) : g.InRange := by
  obtain ⟨⟨hbase, hsize, -, hw, hw', hwb, hwc, -, hwin, hquota⟩, -, hg⟩ := (decodeRingConfig_eq_some_iff x g).1 h
  rw [hg]
  exact ⟨hbase, (ringSizeValid_iff _).2 hsize, ⟨hw, hw'⟩, ⟨hwb, hwc, hwin⟩, hquota⟩

/-! ### The moves -/

/-- What one command may do to request ring `x`: take a producer post (R100), issue a fetch read (R103), take its data
(R104), take a record (R108, R109), discard its prefetched slots for another state (R95, R105), change from a state that
holds none (R94, R96), take a configure or a ring reset (R93, R97), and take its reset values (R168). -/
inductive RingMove (x : RequestRing) : RequestRing → Prop
  | same : RingMove x x
  | post (p : Nat) (hx : x.state ≠ .unconfigured)
      (hp : producerPostOk x.config.size x.consumer x.fetch p = true) : RingMove x { x with producer := p }
  | fetch (n : Nat) (hx : x.state = .active)
      (hn : n = fetchCount x.config.size x.producer x.fetch x.buffer.length Config.prefetchSlots) :
      RingMove x { x with fetch := (x.fetch + n) % x.config.size, buffer := x.buffer ++ List.replicate n none }
  | arrive (b : List (Option Slot)) (hb : b.length = x.buffer.length) : RingMove x { x with buffer := b }
  | consume (n : Nat) (hx : x.state = .active) (hn : n ≤ x.buffer.length) :
      RingMove x { x with consumer := (x.consumer + n) % x.config.size, buffer := x.buffer.drop n }
  | discard (st : RingState) (hx : x.state ≠ .unconfigured) (hst : st ≠ .unconfigured) :
      RingMove x { x with state := st, fetch := x.consumer, buffer := [] }
  | enter (st : RingState) (hx : x.state ≠ .unconfigured) (ha : x.state ≠ .active) (hst : st ≠ .unconfigured) :
      RingMove x { x with state := st }
  | renew (g : RingConfig) (hg : g.InRange ∨ (x.state ≠ .unconfigured ∧ g = x.config)) :
      RingMove x ⟨.ready, g, 0, 0, 0, x.generation + 1, []⟩
  | reset : RingMove x .reset

/-! ### Each move keeps the law -/

section
variable {x : RequestRing}

/-- A post withdraws no fetched slot (R100). -/
theorem RequestRing.Configured.posted (h : x.Configured) {p : Nat}
    (hp : producerPostOk x.config.size x.consumer x.fetch p = true) :
    RequestRing.Configured { x with producer := p } := by
  obtain ⟨hcfg, -, hcons, hfetch, hfour, -, hinactive⟩ := h
  have hsize := hcfg.sixteen_le
  simp only [producerPostOk, Bool.and_eq_true, decide_eq_true_eq] at hp
  obtain ⟨hlt, hdist⟩ := hp
  rw [hfetch, ringDistance_moved hcons (by omega)] at hdist
  exact ⟨hcfg, hlt, hcons, hfetch, hfour, hdist, hinactive⟩

/-- A fetch read covers published slots that fit in the buffer (R103). -/
theorem RequestRing.Configured.fetched (h : x.Configured) (hx : x.state = .active) {n : Nat}
    (hn : n = fetchCount x.config.size x.producer x.fetch x.buffer.length Config.prefetchSlots) :
    RequestRing.Configured
      { x with fetch := (x.fetch + n) % x.config.size, buffer := x.buffer ++ List.replicate n none } := by
  obtain ⟨hcfg, hprod, hcons, hfetch, hfour, hpub, -⟩ := h
  have hunfetched : unfetched x.config.size x.producer x.fetch =
      ringDistance x.producer x.consumer x.config.size - x.buffer.length := by
    rw [unfetched, hfetch, ringDistance_from_moved hprod hcons hpub]
  simp only [fetchCount, Config.prefetchSlots] at hn
  have hlen : (x.buffer ++ List.replicate n none).length = x.buffer.length + n := by simp
  refine ⟨hcfg, hprod, hcons, ?_, ?_, ?_, fun hst => absurd hx hst⟩
  · dsimp only
    rw [hlen, hfetch, Nat.mod_add_mod, Nat.add_assoc]
  · dsimp only
    omega
  · dsimp only
    omega

theorem RequestRing.Configured.arrived (h : x.Configured) {b : List (Option Slot)} (hb : b.length = x.buffer.length) :
    RequestRing.Configured { x with buffer := b } := by
  obtain ⟨hcfg, hprod, hcons, hfetch, hfour, hpub, hinactive⟩ := h
  refine ⟨hcfg, hprod, hcons, hb ▸ hfetch, hb ▸ hfour, hb ▸ hpub, fun hst => ?_⟩
  exact List.eq_nil_of_length_eq_zero (hb.trans (by rw [hinactive hst]; rfl))

/-- The consumer index follows the slots that leave the buffer (R108, R109). -/
theorem RequestRing.Configured.consumed (h : x.Configured) (hx : x.state = .active) {n : Nat}
    (hn : n ≤ x.buffer.length) : RequestRing.Configured
      { x with consumer := (x.consumer + n) % x.config.size, buffer := x.buffer.drop n } := by
  obtain ⟨hcfg, hprod, hcons, hfetch, hfour, hpub, -⟩ := h
  have hsize := hcfg.sixteen_le
  have hlen := List.length_drop (i := n) (l := x.buffer)
  refine ⟨hcfg, hprod, Nat.mod_lt _ (by omega), ?_, ?_, ?_, fun hst => absurd hx hst⟩
  · dsimp only
    rw [hlen, Nat.mod_add_mod, Nat.add_assoc, Nat.add_sub_of_le hn]
    exact hfetch
  · dsimp only
    omega
  · dsimp only
    rw [ringDistance_from_moved hprod hcons (by omega)]
    omega

/-- An empty buffer has its fetch index at the consumer index (R102). -/
theorem RequestRing.Configured.discarded (h : x.Configured) (st : RingState) :
    RequestRing.Configured { x with state := st, fetch := x.consumer, buffer := [] } :=
  ⟨h.config, h.producer, h.consumer, (Nat.mod_eq_of_lt h.consumer).symm, Nat.zero_le _, Nat.zero_le _, fun _ => rfl⟩

theorem RequestRing.Configured.entered (h : x.Configured) (ha : x.state ≠ .active) (st : RingState) :
    RequestRing.Configured { x with state := st } :=
  ⟨h.config, h.producer, h.consumer, h.fetch, h.four, h.published, fun _ => h.inactive ha⟩

theorem configured_renewed {g : RingConfig} (hg : g.InRange) (k : BitVec 8) :
    RequestRing.Configured ⟨.ready, g, 0, 0, 0, k, []⟩ := by
  have hsize := hg.sixteen_le
  have hpos : 0 < g.size := by omega
  exact ⟨hg, hpos, hpos, (Nat.zero_mod _).symm, Nat.zero_le _, Nat.zero_le _, fun _ => rfl⟩

theorem RingMove.lawful {y : RequestRing} (h : RingMove x y) (hl : x.Lawful) : y.Lawful := by
  cases h with
  | same => exact hl
  | post p hx hp => exact .inr ⟨hx, (hl.configured hx).posted hp⟩
  | fetch n hx hn =>
    have hne : x.state ≠ .unconfigured := by rw [hx]; nofun
    exact .inr ⟨hne, (hl.configured hne).fetched hx hn⟩
  | arrive b hb =>
    obtain hblank | ⟨hx, hc⟩ := hl
    · rw [hblank.buffer_eq] at hb
      rw [List.eq_nil_of_length_eq_zero hb, ← hblank.buffer_eq]
      exact .inl hblank
    · exact .inr ⟨hx, hc.arrived hb⟩
  | consume n hx hn =>
    have hne : x.state ≠ .unconfigured := by rw [hx]; nofun
    exact .inr ⟨hne, (hl.configured hne).consumed hx hn⟩
  | discard st hx hst => exact .inr ⟨hst, (hl.configured hx).discarded st⟩
  | enter st hx ha hst => exact .inr ⟨hst, (hl.configured hx).entered ha st⟩
  | renew g hg =>
    obtain hg | ⟨hx, rfl⟩ := hg
    · exact .inr ⟨nofun, configured_renewed hg _⟩
    · exact .inr ⟨nofun, configured_renewed (hl.configured hx).config _⟩
  | reset => exact .inl rfl

end

end Sys2Proof.Machine
end

section
/-! PROOFS. What every command does to the request rings: nothing, or one move in one ring (R92 to R105, R108, R109).
The law of the indices (R102), which each move keeps, follows for every step. -/

namespace Sys2Proof.Machine

-- One proof at a time: each further thread of the compile takes 1 GB of the check's fixed memory.
set_option Elab.async false

/-- The rings of `t` are those of `s`. -/
def SameRings (s t : State) : Prop := t.rings = s.rings

/-- Every ring of `t` is that of `s` after at most one move. -/
def RingMoves (s t : State) : Prop := ∀ r, RingMove (s.ring r) (t.ring r)

section
variable {s t u : State}

theorem SameRings.after (k : SameRings t u) (h : SameRings s t) : SameRings s u := Eq.trans k h

theorem SameRings.ite {c : Prop} [Decidable c] (ht : SameRings s t) (hu : SameRings s u) :
    SameRings s (if c then t else u) := by
  split
  · exact ht
  · exact hu

/-- Rings that stay the same make no move. -/
theorem SameRings.moves (h : SameRings s t) : RingMoves s t := fun r => by
  have hr : t.ring r = s.ring r := by rw [State.ring, h, State.ring]
  rw [hr]
  exact .same

theorem RingMoves.ite {c : Prop} [Decidable c] (ht : RingMoves s t) (hu : RingMoves s u) :
    RingMoves s (if c then t else u) := by
  split
  · exact ht
  · exact hu

theorem SameRings.afterMoves (k : SameRings t u) (h : RingMoves s t) : RingMoves s u := fun r => by
  have hr : u.ring r = t.ring r := by rw [State.ring, k, State.ring]
  rw [hr]
  exact h r

theorem ringMoves_setRing (s : State) {r : RingId} {x : RequestRing} (h : RingMove (s.ring r) x) :
    RingMoves s (s.setRing r x) := fun i => by
  rw [State.ring_setRing]
  split
  · next hi => exact hi ▸ h
  · exact .same

end

/-! ### Operations that leave the rings alone -/

theorem sameRings_sendMessage (s : State) (v : VectorId) : SameRings s (s.sendMessage v) := by
  obtain ⟨_, _, _, _, h, -⟩ := s.sendMessage_frame v
  rw [SameRings, h]

theorem sameRings_releaseVector (s : State) (v : VectorId) : SameRings s (s.releaseVector v) := by
  obtain ⟨_, _, _, _, h, -⟩ := s.releaseVector_frame v
  rw [SameRings, h]

theorem sameRings_dropMessages (s : State) : SameRings s s.dropMessages := by
  obtain ⟨_, _, _, h, -⟩ := s.dropMessages_cases
  rw [SameRings, h]

theorem sameRings_setFault (s : State) (b : FaultBit) : SameRings s (s.setFault b) := by
  obtain ⟨_, _, _, _, _, h, -⟩ := s.setFault_frame b
  rw [SameRings, h]

theorem sameRings_chargeGrant (s : State) (q : Requester) : SameRings s (s.chargeGrant q) := by
  obtain ⟨_, _, h⟩ := s.chargeGrant_frame q
  rw [SameRings, h]

theorem sameRings_grant {s g : State} {q : Requester} (h : s.grant q = some g) : SameRings s g := by
  obtain ⟨_, _, _, rfl⟩ := s.grant_frame h
  rfl

theorem sameRings_moveOn (s : State) (c : CellId) (n : Option EntryId) : SameRings s (s.moveOn c n) := by
  obtain ⟨_, _, h⟩ := s.moveOn_frame c n
  rw [SameRings, h]

theorem sameRings_reportIf (s : State) (b : Bool) (c : CellId) : SameRings s (s.reportIf b c) := by
  obtain ⟨_, _, h⟩ := s.reportIf_frame b c
  rw [SameRings, h]

theorem sameRings_claimEnd (s : State) (st : Status) (e : EntryId) : SameRings s (s.claimEnd st e) := by
  obtain ⟨_, _, _, _, _, _, h⟩ := s.claimEnd_frame st e
  rw [SameRings, h]

theorem sameRings_claimAll (s : State) (st : Status) (es : List EntryId) : SameRings s (s.claimAll st es) := by
  obtain ⟨_, _, _, _, _, _, h⟩ := s.claimAll_frame st es
  rw [SameRings, h]

theorem sameRings_finish (s : State) (r : RingId) (quiet : Bool) (o : Report) : SameRings s (s.finish r quiet o) := by
  obtain ⟨_, _, h⟩ := s.finish_frame r quiet o
  rw [SameRings, h]

theorem sameRings_startRequest (s : State) (r : RingId) (q : Request) : SameRings s (s.startRequest r q) := by
  obtain ⟨_, _, _, _, _, _, _, h⟩ := s.startRequest_frame r q
  rw [SameRings, h]

theorem sameRings_releaseFence (s : State) (r : RingId) : SameRings s (s.releaseFence r) := by
  obtain ⟨_, _, _, _, _, _, _, h⟩ := s.releaseFence_frame r
  rw [SameRings, h]

theorem sameRings_abortContext (s : State) (r : RingId) : SameRings s (s.abortContext r) := by
  have aborted (q : Request) (n : Nat) (m : Bool) : SameRings s (s.abortRequest r q n m) :=
    (sameRings_finish _ _ _ _).after (.ite rfl rfl)
  unfold State.abortContext
  split
  · exact rfl
  · exact aborted _ _ _
  · exact aborted _ _ _
  · exact aborted _ _ _
  · exact aborted _ _ _
  · exact rfl

theorem sameRings_deliver (s : State) (x : Source) : SameRings s (s.deliver x) := by
  cases x with
  | entry e => exact freeEntry_rings s e
  | ring r => exact rfl
  | admin => exact rfl

theorem sameRings_enterResetting (s : State) (mid : Bool) : SameRings s (s.enterResetting mid) := by
  refine .ite rfl ?_
  dsimp only
  split
  · exact sameRings_chargeGrant s _
  · exact rfl

theorem sameRings_controlWrite (s : State) (w : Word32) (mid : Bool) : SameRings s (s.controlWrite w mid) :=
  .ite (sameRings_enterResetting s mid) (.ite (.ite rfl (sameRings_setFault s _)) rfl)

theorem sameRings_adminRegisterWrite (s : State) (f : State → State) (hf : SameRings s (f s)) :
    SameRings s (s.adminRegisterWrite f) := .ite hf (sameRings_setFault s _)

theorem sameRings_readRegister (s : State) (offset : Nat) (bytes : List Byte) :
    SameRings s ((s.takeSnapshot offset).sendReply bytes) := by
  unfold State.takeSnapshot State.sendReply
  repeat' split
  all_goals exact rfl

/-- A hold that is true at its arrival, and an UPDATE (R23, R36). -/
theorem sameRings_fireAtArrival (s : State) (r : RingId) (h : Header) (act : Action) (w : CellValue) :
    SameRings s (s.fireAtArrival r h act w) := (sameRings_reportIf _ _ _).after (sameRings_finish _ _ _ _)

theorem sameRings_armOrWait (s : State) (r : RingId) (q : Request) (act : Action) (k : Condition) (d : Option Time) :
    SameRings s (s.armOrWait r q act k d) := by
  refine .ite (sameRings_finish _ _ _ _) ?_
  split <;> exact rfl

theorem sameRings_testEntry (s : State) (c : CellId) (e : EntryId) (x : HoldEntry) :
    SameRings s (s.testEntry c e x) := by
  have hfire : SameRings s (s.fireEntry e x (readCell s.mem c)) :=
    (sameRings_reportIf _ _ _).after (.ite (SameRings.after (freeEntry_rings _ _) rfl) rfl)
  exact .ite ((sameRings_releaseFence _ _).after ((sameRings_moveOn _ _ _).after hfire)) (sameRings_moveOn _ _ _)

theorem sameRings_adminFetchFault (s : State) : SameRings s s.adminFetchFault := by
  unfold State.adminFetchFault
  exact (sameRings_setFault _ _).after rfl

theorem sameRings_bulkFault (s : State) (r : RingId) : SameRings s (s.bulkFault r) := by
  unfold State.bulkFault
  split
  · exact sameRings_finish _ _ _ _
  · exact rfl

theorem sameRings_bulkData (s : State) (r : RingId) (data : List CellValue) : SameRings s (s.bulkData r data) := by
  unfold State.bulkData
  dsimp only
  split <;> exact rfl

theorem sameRings_issueBulkRead (s : State) (p : PlaceId) (r : RingId) : SameRings s (s.issueBulkRead p r) := by
  unfold State.issueBulkRead
  split
  · split <;> exact rfl
  · exact rfl

theorem sameRings_writeRingRecord (s : State) (c : CRingId) : SameRings s (s.writeRingRecord c) := by
  unfold State.writeRingRecord
  dsimp only
  split
  · exact rfl
  · split
    · exact rfl
    · exact (sameRings_deliver _ _).after (.ite ((sameRings_sendMessage _ _).after rfl) rfl)

theorem sameRings_writeAdminRecord (s : State) : SameRings s s.writeAdminRecord := by
  unfold State.writeAdminRecord
  dsimp only
  split
  · exact rfl
  · split
    · exact rfl
    · exact (sameRings_deliver _ _).after ((sameRings_sendMessage _ _).after rfl)

theorem sameRings_advanceClear (s : State) (kind : Byte) (tag : BitVec 16) (f n k : Nat) (b : Bool) :
    SameRings s (s.advanceClear kind tag f n k b) := .ite rfl rfl

/-! ### Commands that move a ring -/

/-- A producer post alone moves a ring (R100). -/
theorem ringMoves_indexPost (s : State) (w : Word32) : RingMoves s (s.indexPost w) := by
  have fault : RingMoves s (s.setFault .postError) := (sameRings_setFault s _).moves
  unfold State.indexPost
  refine .ite fault ?_
  dsimp only
  split
  · unfold State.postRequestProducer
    dsimp only
    split
    · next hc =>
      simp only [Bool.and_eq_true, decide_eq_true_eq] at hc
      exact ringMoves_setRing s (.post _ hc.1 hc.2)
    · exact fault
  · refine .ite (.ite (SameRings.moves rfl) fault) ?_
    split
    · exact .ite (SameRings.moves rfl) fault
    · exact .ite (.ite (SameRings.moves rfl) fault) fault

theorem ringMoves_writeRegister (s : State) (offset size : Nat) (w : Word32) :
    RingMoves s (s.writeRegister offset size w) := by
  refine .ite (SameRings.moves rfl) ?_
  split
  · exact (sameRings_controlWrite s w false).moves
  · exact SameRings.moves rfl
  · exact SameRings.moves (sameRings_adminRegisterWrite s _ rfl)
  · exact SameRings.moves (sameRings_adminRegisterWrite s _ rfl)
  · exact SameRings.moves (sameRings_adminRegisterWrite s _ rfl)
  · exact ringMoves_indexPost s w
  · exact SameRings.moves rfl

theorem ringMoves_access (s : State) {f : State → State} (hf : RingMoves s (f s)) : RingMoves s (s.access f) :=
  .ite hf (SameRings.moves rfl)

/-- Every ring takes its reset values (R168). -/
theorem ringMoves_reset {s t : State} (h : SameRings .reset t) : RingMoves s t := fun r => by
  have hr : t.ring r = .reset := by rw [State.ring, h, ← State.ring, ring_reset]
  rw [hr]
  exact .reset

/-- An eligible ring is ACTIVE (R103). -/
theorem ringMoves_issueRingFetch (s : State) (p : PlaceId) {r : RingId} (h : s.ringEligible r = true) :
    RingMoves s (s.issueRingFetch p r) := by
  have hactive : (s.ring r).state = .active := by
    simp only [State.ringEligible, Bool.and_eq_true, decide_eq_true_eq] at h
    exact h.1.1
  exact ringMoves_setRing s (.fetch _ hactive rfl)

theorem ringMoves_fetchFault (s : State) (r : RingId) : RingMoves s (s.fetchFault r) := by
  unfold State.fetchFault
  dsimp only
  split
  · next hc =>
    have hx : (s.ring r).state ≠ .unconfigured := by
      intro hu
      simp [hu] at hc
    exact ringMoves_setRing s (.discard .faulted hx nofun)
  · exact SameRings.moves rfl

theorem ringMoves_returnFault (s : State) (p : PlaceId) (x : Read) : RingMoves s (s.returnFault p x) := by
  obtain ⟨-, h⟩ | ⟨-, ⟨r, -, h⟩ | ⟨-, h⟩ | ⟨r, -, h⟩⟩ := s.returnFault_cases p x <;> rw [h]
  · exact SameRings.moves rfl
  · exact ringMoves_fetchFault (s.release p) r
  · exact (sameRings_adminFetchFault (s.release p)).moves
  · exact (sameRings_bulkFault (s.release p) r).moves

/-- Returned data is handled by its owner, dropped, or a fault (R172). -/
theorem ringMoves_returnData (s : State) (p : PlaceId) (x : Read) (n : Nat) {f : State → State}
    (hf : RingMoves s (f (s.release p))) : RingMoves s (s.returnData p x n f) :=
  .ite (SameRings.moves rfl) (.ite (.ite hf (SameRings.moves rfl)) (ringMoves_returnFault s p x))

theorem ringMoves_fetchData (s : State) (r : RingId) (first : Nat) (data : List Slot) :
    RingMoves s (s.fetchData r first data) :=
  .ite (ringMoves_setRing s (.arrive _ (length_arriveSlots _ _ _))) (SameRings.moves rfl)

/-- The slots of a taken record leave the buffer (R108, R109). -/
theorem ringMoves_takeRecord (s : State) {r : RingId} (x : Slot) (y : Option Slot) {n : Nat}
    (ha : (s.ring r).state = .active) (hn : n ≤ (s.ring r).buffer.length) : RingMoves s (s.takeRecord r x y n) := by
  have hconsume : RingMoves s (s.consumeSlots r n) := ringMoves_setRing s (.consume n ha hn)
  unfold State.takeRecord
  dsimp only
  split
  · exact (sameRings_finish _ _ _ _).afterMoves hconsume
  · exact .ite (SameRings.afterMoves rfl hconsume) ((sameRings_startRequest _ _ _).afterMoves hconsume)

/-- What the taking of a record waits for (R108). -/
theorem oldestSlot_eq_some_iff (s : State) (r : RingId) (x : Slot) : s.oldestSlot r = some x ↔
    (s.device = .running ∧ (s.ring r).state = .active ∧ (s.ctx r).work = .empty ∧ (s.ctx r).event = none) ∧
      ∃ rest, (s.ring r).buffer = some x :: rest := by
  unfold State.oldestSlot
  split
  · next hc =>
    simp only [Bool.and_eq_true, decide_eq_true_eq, and_assoc] at hc
    rw [and_iff_right hc]
    split
    · next y rest hb => simp [hb]
    · next hno => exact ⟨nofun, fun ⟨rest, hb⟩ => absurd hb (hno x rest)⟩
  · next hc =>
    simp only [Bool.and_eq_true, decide_eq_true_eq, and_assoc] at hc
    exact ⟨nofun, fun h => absurd h.1 hc⟩

/-- The second slot of a HOLD has arrived (R109). -/
theorem secondSlot_eq_some_iff (s : State) (r : RingId) (y : Slot) :
    s.secondSlot r = some y ↔ ∃ x rest, (s.ring r).buffer = x :: some y :: rest := by
  unfold State.secondSlot
  split
  · next x z rest hb => simp [hb]
  · next hno => exact ⟨nofun, fun ⟨x, rest, hb⟩ => absurd hb (hno x y rest)⟩

theorem ringMoves_takeKind (s : State) (r : RingId) (k : Option RequestKind) : RingMoves s (s.takeKind r k) := by
  unfold State.takeKind
  split
  · next x hx =>
    obtain ⟨⟨-, ha, -⟩, rest, hb⟩ := (oldestSlot_eq_some_iff s r x).1 hx
    exact .ite (ringMoves_takeRecord s x none ha (by simp [hb])) (SameRings.moves rfl)
  · exact SameRings.moves rfl

theorem ringMoves_takeHold (s : State) (r : RingId) : RingMoves s (s.takeHold r) := by
  unfold State.takeHold
  split
  · next x y hx hy =>
    obtain ⟨⟨-, ha, -⟩, -⟩ := (oldestSlot_eq_some_iff s r x).1 hx
    obtain ⟨z, rest, hb⟩ := (secondSlot_eq_some_iff s r y).1 hy
    exact .ite (ringMoves_takeRecord s x (some y) ha (by simp [hb])) (SameRings.moves rfl)
  · exact SameRings.moves rfl

/-! ### Admin requests -/

theorem ringMoves_takeAdmin (s : State) (k : Option AdminKind) {f : State → Slot → State}
    (hf : ∀ t x, RingMoves t (f t x)) : RingMoves s (s.takeAdmin k f) := by
  unfold State.takeAdmin
  split
  · next x _ => exact .ite (hf s.consumeAdmin x) (SameRings.moves rfl)
  · exact SameRings.moves rfl

theorem ringMoves_configureRing (s : State) (x : Slot) : RingMoves s (s.configureRing x) := by
  unfold State.configureRing
  split
  · exact SameRings.moves rfl
  · split
    · exact SameRings.moves rfl
    · next g hg =>
      exact .ite (ringMoves_setRing s (.renew g (.inl (inRange_of_decode hg)))) (SameRings.moves rfl)

theorem ringMoves_startRing (s : State) (x : Slot) : RingMoves s (s.startRing x) := by
  unfold State.startRing
  split
  · exact SameRings.moves rfl
  · split
    · next hc =>
      simp only [Bool.or_eq_true, decide_eq_true_eq] at hc
      refine ringMoves_setRing s (.enter .active ?_ ?_ nofun)
      · rcases hc with hc | hc <;> simp [hc]
      · rcases hc with hc | hc <;> simp [hc]
    · exact SameRings.moves rfl

theorem ringMoves_stopActive (s : State) {r : RingId} (h : (s.ring r).state = .active) :
    RingMoves s (s.stopActive r) := by
  refine ringMoves_setRing s (.discard _ (by rw [h]; nofun) ?_)
  split <;> exact nofun

theorem ringMoves_stopRing (s : State) (x : Slot) : RingMoves s (s.stopRing x) := by
  unfold State.stopRing
  split
  · exact SameRings.moves rfl
  · split
    · next ha => exact ringMoves_stopActive s ha
    all_goals exact SameRings.moves rfl

theorem ringMoves_resetRing (s : State) (x : Slot) : RingMoves s (s.resetRing x) := by
  unfold State.resetRing
  split
  · exact SameRings.moves rfl
  · next r _ =>
    split
    · exact SameRings.moves rfl
    · next hc =>
      have hx : (s.ring r).state ≠ .unconfigured := by
        intro hu
        simp [hu] at hc
      have hindices : RingMoves s (s.resetIndices r) := ringMoves_setRing s (.renew _ (.inr ⟨hx, rfl⟩))
      exact (sameRings_abortContext _ r).afterMoves ((sameRings_claimAll _ _ _).afterMoves hindices)

theorem sameRings_cancelHoldsRequest (s : State) (x : Slot) : SameRings s (s.cancelHoldsRequest x) := by
  unfold State.cancelHoldsRequest
  split
  · exact rfl
  · next rs _ =>
    obtain ⟨_, _, _, _, _, _, _, h⟩ := cancelRings_frame s rs (slotHalf x 32) (slotHalf x 48)
    have hrings : SameRings s (s.cancelRings rs (slotHalf x 32) (slotHalf x 48)) := by rw [SameRings, h]
    exact hrings

theorem sameRings_resetCRing (s : State) (x : Slot) : SameRings s (s.resetCRing x) := by
  unfold State.resetCRing
  split
  · exact rfl
  · next c _ =>
    obtain ⟨_, _, _, h⟩ := discards_frame (s.cring c).list s
    have hrings : SameRings s ((s.cring c).list.foldl State.discard s) := by rw [SameRings, h]
    exact .ite rfl hrings

theorem sameRings_configureCRing (s : State) (x : Slot) : SameRings s (s.configureCRing x) := by
  unfold State.configureCRing
  split
  · exact rfl
  · split
    · exact rfl
    · exact .ite rfl rfl

theorem sameRings_clearCellsRequest (s : State) (x : Slot) : SameRings s (s.clearCellsRequest x) := .ite rfl rfl

theorem sameRings_readStatusRequest (s : State) (x : Slot) : SameRings s (s.readStatusRequest x) := by
  unfold State.readStatusRequest
  split <;> exact rfl

/-! ### Every command -/

/-- Every next state of an outcome has its rings moved at most once each. -/
def RingMovesTo (s : State) (o : Host.Outcome State Fault Refusal) : Prop := ∀ t, o = .next t → RingMoves s t

theorem ringMovesTo_next {s t : State} (h : RingMoves s t) : RingMovesTo s (.next t) := fun _ e => by cases e; exact h

theorem ringMovesTo_same {s t : State} (h : SameRings s t) : RingMovesTo s (.next t) := ringMovesTo_next h.moves

theorem ringMovesTo_fault (s : State) (x : Fault) : RingMovesTo s (.fault x) := fun _ e => by cases e

theorem ringMovesTo_expiry (s : State) : RingMovesTo s (execExpiry s) := by
  refine ringMovesTo_same ?_
  split
  · exact rfl
  · split
    · exact .ite ((sameRings_releaseFence _ _).after (sameRings_claimEnd _ _ _)) rfl
    · exact rfl

theorem ringMovesTo_waitEntryTimeout (r : RingId) (s : State) : RingMovesTo s (execWaitEntryTimeout r s) := by
  refine ringMovesTo_same ?_
  split
  · exact .ite (sameRings_finish _ _ _ _) rfl
  · exact rfl

theorem ringMovesTo_readTimeout (p : PlaceId) (s : State) : RingMovesTo s (execReadTimeout p s) := by
  refine ringMovesTo_next ?_
  split
  · exact .ite (ringMoves_returnFault s p _) (SameRings.moves rfl)
  · exact SameRings.moves rfl

theorem ringMovesTo_fetchReadIssue (s : State) : RingMovesTo s (execFetchReadIssue s) := by
  refine ringMovesTo_next (.ite ?_ (SameRings.moves rfl))
  split
  · exact SameRings.moves rfl
  · refine .ite (SameRings.moves rfl) ?_
    split
    · next r hr => exact ringMoves_issueRingFetch s _ (List.find?_some hr)
    · exact SameRings.moves rfl

theorem ringMovesTo_bulkDataReadIssue (s : State) : RingMovesTo s (execBulkDataReadIssue s) := by
  refine ringMovesTo_same (.ite ?_ rfl)
  split
  · exact sameRings_issueBulkRead s _ _
  · exact rfl

theorem ringMovesTo_fetchReadFault (p : PlaceId) (s : State) : RingMovesTo s (execFetchReadFault p s) := by
  refine ringMovesTo_next ?_
  split
  · split
    · exact ringMoves_returnFault s p _
    · exact SameRings.moves rfl
  · exact SameRings.moves rfl

theorem ringMovesTo_adminFetchReadFault (p : PlaceId) (s : State) : RingMovesTo s (execAdminFetchReadFault p s) := by
  refine ringMovesTo_next ?_
  split
  · split
    · exact ringMoves_returnFault s p _
    · exact SameRings.moves rfl
  · exact SameRings.moves rfl

theorem ringMovesTo_bulkDataFault (p : PlaceId) (s : State) : RingMovesTo s (execBulkDataFault p s) := by
  refine ringMovesTo_next ?_
  split
  · split
    · exact ringMoves_returnFault s p _
    · exact SameRings.moves rfl
  · exact SameRings.moves rfl

theorem ringMovesTo_fetchReadReturn (p : PlaceId) (data : List Slot) (s : State) :
    RingMovesTo s (execFetchReadReturn p data s) := by
  refine ringMovesTo_next ?_
  split
  · split
    · exact ringMoves_returnData s p _ _ (ringMoves_fetchData (s.release p) _ _ _)
    · exact SameRings.moves rfl
  · exact SameRings.moves rfl

theorem ringMovesTo_adminFetchReturn (p : PlaceId) (data : List Slot) (s : State) :
    RingMovesTo s (execAdminFetchReturn p data s) := by
  refine ringMovesTo_next ?_
  split
  · split
    · exact ringMoves_returnData s p _ _ (SameRings.moves rfl)
    · exact SameRings.moves rfl
  · exact SameRings.moves rfl

theorem ringMovesTo_bulkDataReturn (p : PlaceId) (data : List CellValue) (s : State) :
    RingMovesTo s (execBulkDataReturn p data s) := by
  refine ringMovesTo_next ?_
  split
  · split
    · exact ringMoves_returnData s p _ _ (sameRings_bulkData (s.release p) _ _).moves
    · exact SameRings.moves rfl
  · exact SameRings.moves rfl

theorem ringMovesTo_updateOperation (r : RingId) (s : State) : RingMovesTo s (execUpdateOperation r s) := by
  refine ringMovesTo_same ?_
  split
  · split
    · next hg => exact (sameRings_fireAtArrival _ _ _ _ 0).after (sameRings_grant hg)
    · exact rfl
  · exact rfl

theorem ringMovesTo_holdArrival (r : RingId) (s : State) : RingMovesTo s (execHoldArrival r s) := by
  refine ringMovesTo_same ?_
  split
  · split
    · next hg =>
      refine SameRings.after ?_ (sameRings_grant hg)
      exact .ite (sameRings_fireAtArrival _ _ _ _ _)
        (.ite (sameRings_finish _ _ _ _) (sameRings_armOrWait _ _ _ _ _ _))
    · exact rfl
  · exact rfl

theorem ringMovesTo_holdRetry (r : RingId) (s : State) : RingMovesTo s (execHoldRetry r s) := by
  refine ringMovesTo_same ?_
  split
  · split
    · next hg =>
      refine SameRings.after ?_ (sameRings_grant hg)
      exact .ite (sameRings_fireAtArrival _ _ _ _ _)
        (.ite (sameRings_finish _ _ _ _) (sameRings_armOrWait _ _ _ _ _ _))
    · exact rfl
  · exact rfl

theorem ringMovesTo_scanStep (s : State) : RingMovesTo s (execScanStep s) := by
  refine ringMovesTo_same ?_
  split
  · split
    · split
      · split
        · next hg => exact (sameRings_testEntry _ _ _ _).after (sameRings_grant hg)
        · exact rfl
      · exact rfl
    · exact rfl
  · exact rfl

theorem ringMovesTo_bulkReadCell (r : RingId) (s : State) : RingMovesTo s (execBulkReadCell r s) := by
  unfold execBulkReadCell
  split
  · dsimp only
    split
    · split
      · next hg =>
        split
        · exact ringMovesTo_fault s _
        · refine ringMovesTo_same (SameRings.after ?_ (sameRings_grant hg))
          exact .ite rfl ((sameRings_finish _ _ _ _).after rfl)
      · exact ringMovesTo_same rfl
    · exact ringMovesTo_same rfl
  · exact ringMovesTo_same rfl

theorem ringMovesTo_bulkWriteCell (r : RingId) (s : State) : RingMovesTo s (execBulkWriteCell r s) := by
  unfold execBulkWriteCell
  split
  · dsimp only
    split
    · split
      · next hg =>
        split
        · refine ringMovesTo_same ((sameRings_reportIf _ _ _).after (SameRings.after ?_ (sameRings_grant hg)))
          exact .ite rfl ((sameRings_finish _ _ _ _).after rfl)
        · exact ringMovesTo_fault s _
      · exact ringMovesTo_same rfl
    · exact ringMovesTo_same rfl
  · exact ringMovesTo_same rfl

theorem ringMovesTo_clearCellsCell (s : State) : RingMovesTo s (execClearCellsCell s) := by
  unfold execClearCellsCell
  split
  · split
    · split
      · next hg =>
        split
        · refine ringMovesTo_same ((sameRings_reportIf _ _ _).after (SameRings.after ?_ (sameRings_grant hg)))
          exact (sameRings_advanceClear _ _ _ _ _ _ _).after rfl
        · exact ringMovesTo_fault s _
      · exact ringMovesTo_same rfl
    · exact ringMovesTo_same rfl
  · exact ringMovesTo_same rfl

theorem ringMovesTo_fetchEventEntry (r : RingId) (s : State) : RingMovesTo s (execFetchEventEntry r s) := by
  refine ringMovesTo_same ?_
  split
  · exact .ite ((sameRings_finish _ _ _ _).after rfl) rfl
  · exact rfl

theorem ringMovesTo_drainEnd (r : RingId) (s : State) : RingMovesTo s (execDrainEnd r s) := by
  refine ringMovesTo_next ?_
  split
  · next hc =>
    simp only [Bool.and_eq_true, decide_eq_true_eq] at hc
    obtain ⟨⟨-, hst⟩, -⟩ := hc
    exact ringMoves_setRing s (.enter .stopped (by rw [hst]; nofun) (by rw [hst]; nofun) nofun)
  · exact SameRings.moves rfl

theorem ringMovesTo_completionRecordWrite (l : ListId) (s : State) :
    RingMovesTo s (execCompletionRecordWrite l s) := by
  refine ringMovesTo_same (.ite ?_ rfl)
  cases l with
  | admin => exact sameRings_writeAdminRecord s
  | ring c => exact sameRings_writeRingRecord s c

theorem ringMovesTo_heldMessageRelease (s : State) : RingMovesTo s (execHeldMessageRelease s) := by
  refine ringMovesTo_same ?_
  split
  · exact sameRings_releaseVector _ _
  · exact rfl

theorem ringMovesTo_postedWriteDepart (s : State) : RingMovesTo s (execPostedWriteDepart s) := by
  refine ringMovesTo_same (.ite ?_ rfl)
  split <;> exact rfl

theorem exec_ringMoves (c : Instr) (s : State) : RingMovesTo s (exec c s) := by
  cases c with
  | powerOnReset => exact ringMovesTo_next (ringMoves_reset rfl)
  | linkReset mid => exact ringMovesTo_same (SameRings.after rfl (sameRings_enterResetting s mid))
  | controlEnable w => exact ringMovesTo_next (ringMoves_access s (sameRings_controlWrite s w false).moves)
  | controlReset w mid => exact ringMovesTo_next (ringMoves_access s (sameRings_controlWrite s w mid).moves)
  | resetValuesTaken => exact ringMovesTo_next (.ite (ringMoves_reset rfl) (SameRings.moves rfl))
  | faultWrite w => exact ringMovesTo_same (.ite rfl rfl)
  | adminBaseLowWrite w => exact ringMovesTo_same (.ite (sameRings_adminRegisterWrite s _ rfl) rfl)
  | adminBaseHighWrite w => exact ringMovesTo_same (.ite (sameRings_adminRegisterWrite s _ rfl) rfl)
  | adminSizeWrite w => exact ringMovesTo_same (.ite (sameRings_adminRegisterWrite s _ rfl) rfl)
  | requestRingProducerPost w => exact ringMovesTo_next (ringMoves_access s (ringMoves_indexPost s w))
  | adminProducerPost w => exact ringMovesTo_next (ringMoves_access s (ringMoves_indexPost s w))
  | completionConsumerPost w => exact ringMovesTo_next (ringMoves_access s (ringMoves_indexPost s w))
  | adminCompletionConsumerPost w => exact ringMovesTo_next (ringMoves_access s (ringMoves_indexPost s w))
  | timeLowRead first count => exact ringMovesTo_same (.ite (sameRings_readRegister s _ _) rfl)
  | registerWriteIgnored offset size w =>
    exact ringMovesTo_next (ringMoves_access s (ringMoves_writeRegister s offset size w))
  | microsecondTick => exact ringMovesTo_same rfl
  | expiry => exact ringMovesTo_expiry s
  | waitEntryTimeout r => exact ringMovesTo_waitEntryTimeout r s
  | holdoffExpiry c => exact ringMovesTo_same (.ite ((sameRings_sendMessage _ _).after rfl) rfl)
  | readTimeout p => exact ringMovesTo_readTimeout p s
  | fetchReadIssue => exact ringMovesTo_fetchReadIssue s
  | fetchReadReturn p data => exact ringMovesTo_fetchReadReturn p data s
  | fetchReadFault p => exact ringMovesTo_fetchReadFault p s
  | adminFetchReturn p data => exact ringMovesTo_adminFetchReturn p data s
  | adminFetchReadFault p => exact ringMovesTo_adminFetchReadFault p s
  | bulkDataReadIssue => exact ringMovesTo_bulkDataReadIssue s
  | bulkDataReturn p data => exact ringMovesTo_bulkDataReturn p data s
  | bulkDataFault p => exact ringMovesTo_bulkDataFault p s
  | nop r => exact ringMovesTo_next (ringMoves_takeKind s r _)
  | unknownKind r => exact ringMovesTo_next (ringMoves_takeKind s r _)
  | update r => exact ringMovesTo_next (ringMoves_takeKind s r _)
  | updateOperation r => exact ringMovesTo_updateOperation r s
  | hold r => exact ringMovesTo_next (ringMoves_takeHold s r)
  | holdArrival r => exact ringMovesTo_holdArrival r s
  | holdRetry r => exact ringMovesTo_holdRetry r s
  | scanStep => exact ringMovesTo_scanStep s
  | bulkRead r => exact ringMovesTo_next (ringMoves_takeKind s r _)
  | bulkReadCell r => exact ringMovesTo_bulkReadCell r s
  | bulkWrite r => exact ringMovesTo_next (ringMoves_takeKind s r _)
  | bulkWriteCell r => exact ringMovesTo_bulkWriteCell r s
  | cancel r => exact ringMovesTo_next (ringMoves_takeKind s r _)
  | fetchEventEntry r => exact ringMovesTo_fetchEventEntry r s
  | drainEnd r => exact ringMovesTo_drainEnd r s
  | completionRecordWrite l => exact ringMovesTo_completionRecordWrite l s
  | heldMessageRelease => exact ringMovesTo_heldMessageRelease s
  | postedWriteDepart => exact ringMovesTo_postedWriteDepart s
  | adminNop => exact ringMovesTo_next (ringMoves_takeAdmin s _ fun _ _ => SameRings.moves rfl)
  | adminUnknownKind => exact ringMovesTo_next (ringMoves_takeAdmin s _ fun _ _ => SameRings.moves rfl)
  | configureRequestRing => exact ringMovesTo_next (ringMoves_takeAdmin s _ ringMoves_configureRing)
  | configureCompletionRing =>
    exact ringMovesTo_next (ringMoves_takeAdmin s _ fun t x => (sameRings_configureCRing t x).moves)
  | startRing => exact ringMovesTo_next (ringMoves_takeAdmin s _ ringMoves_startRing)
  | stopRing => exact ringMovesTo_next (ringMoves_takeAdmin s _ ringMoves_stopRing)
  | resetRing => exact ringMovesTo_next (ringMoves_takeAdmin s _ ringMoves_resetRing)
  | resetCompletionRing =>
    exact ringMovesTo_next (ringMoves_takeAdmin s _ fun t x => (sameRings_resetCRing t x).moves)
  | cancelHolds => exact ringMovesTo_next (ringMoves_takeAdmin s _ fun t x => (sameRings_cancelHoldsRequest t x).moves)
  | clearCells => exact ringMovesTo_next (ringMoves_takeAdmin s _ fun t x => (sameRings_clearCellsRequest t x).moves)
  | clearCellsCell => exact ringMovesTo_clearCellsCell s
  | readStatus => exact ringMovesTo_next (ringMoves_takeAdmin s _ fun t x => (sameRings_readStatusRequest t x).moves)
  | configurationSpaceWrite cfg =>
    exact ringMovesTo_same ((sameRings_dropMessages _).after (.ite rfl rfl))

/-- Settles O55: each ring makes at most one move, and each move keeps the law. -/
theorem stepsKeepTheRingIndices : Obligations.StepsKeepTheRingIndices := by
  intro s t hs h r
  unfold step at h
  split at h
  · cases h; exact hs r
  · next c rest _ => exact (exec_ringMoves c _ t h r).lawful (hs r)

end Sys2Proof.Machine
end

section
/-! PROOFS. Producer-index posts (R100, R151, R178): which posts are taken, and the ring that each one names. -/

namespace Sys2Proof.Machine

-- One proof at a time: each further thread of the compile takes 1 GB of the check's fixed memory.
set_option Elab.async false

theorem producerPostOk_iff (size consumer fetch p : Nat) : producerPostOk size consumer fetch p = true ↔
    p < size ∧ (fetch + size - consumer) % size ≤ (p + size - consumer) % size := by
  rw [producerPostOk, Bool.and_eq_true, decide_eq_true_eq, decide_eq_true_eq]
  rfl

section
variable {s : State} {w : Word32}

/-- A post reaches the part while its memory space is enabled (R173). -/
theorem exec_producerPost (hm : s.cfg.memorySpace = true) :
    exec (.requestRingProducerPost w) s = .next (s.indexPost w) ∧
      exec (.adminProducerPost w) s = .next (s.indexPost w) := by
  have haccess : s.access (fun s => s.indexPost w) = s.indexPost w := if_pos hm
  exact ⟨congrArg _ haccess, congrArg _ haccess⟩

/-- In RUNNING the selectors 0 to 7 name the request rings (R178). -/
theorem indexPost_ring (hd : s.device = .running) {r : RingId} (hsel : (w.extractLsb' 16 8).toNat = r.val) :
    s.indexPost w = s.postRequestProducer r (w.extractLsb' 0 12).toNat := by
  have hlt : (Instr.postSelector w).toNat < 8 := by rw [Instr.postSelector, hsel]; exact r.isLt
  rw [State.indexPost, if_neg (not_not.2 hd)]
  dsimp only
  rw [dif_pos hlt]
  exact congrArg (s.postRequestProducer · _) (Fin.ext hsel)

/-- In RUNNING the selector 8 names the admin ring (R178). -/
theorem indexPost_admin (hd : s.device = .running) (hsel : (w.extractLsb' 16 8).toNat = 0x08) :
    s.indexPost w = s.postAdminProducer (w.extractLsb' 0 12).toNat := by
  have hsel' : (Instr.postSelector w).toNat = 0x08 := hsel
  rw [State.indexPost, if_neg (not_not.2 hd)]
  dsimp only
  rw [dif_neg (by omega), if_pos hsel']
  rfl

end

/-- Settles O8: the post names its ring, and is taken by R100's tests on the ring's indices. -/
theorem producerPosts : Obligations.ProducerPosts := by
  intro s w hm hd p
  obtain ⟨hring, hadmin⟩ := exec_producerPost (s := s) (w := w) hm
  refine ⟨fun r hsel => ?_, fun hsel => ?_⟩
  · rw [hring, indexPost_ring hd hsel, State.postRequestProducer]
    dsimp only
    simp only [Bool.and_eq_true, decide_eq_true_eq, producerPostOk_iff]
    refine ⟨fun hx hlt hle => ?_, fun hbad => ?_⟩
    · rw [if_pos ⟨hx, hlt, hle⟩]
    · rw [if_neg]
      rintro ⟨hx, hlt, hle⟩
      obtain h | h | h := hbad
      · exact hx h
      · exact Nat.not_lt.2 h hlt
      · exact Nat.not_lt.2 hle h
  · rw [hadmin, indexPost_admin hd hsel, State.postAdminProducer]
    simp only [producerPostOk_iff]
    refine ⟨fun hlt hle => ?_, fun hbad => ?_⟩
    · rw [if_pos ⟨hlt, hle⟩]
    · rw [if_neg]
      rintro ⟨hlt, hle⟩
      exact hbad.elim (fun h => Nat.not_lt.2 h hlt) (fun h => Nat.not_lt.2 hle h)

end Sys2Proof.Machine
end

section
/-! PROOFS. The issue of reads (R103, R123, R152, R170, R173): the choice of the place and of the owner, and what the
read covers. -/

namespace Sys2Proof.Machine

-- One proof at a time: each further thread of the compile takes 1 GB of the check's fixed memory.
set_option Elab.async false

/-! ### Who waits for a place (R103, R123, R152) -/

/-- The lowest member of `Fin n` that satisfies a test. -/
theorem find?_finRange_eq_some {n : Nat} {f : Fin n → Bool} {i : Fin n} (hi : f i = true)
    (h : ∀ j, j < i → f j = false) : (List.finRange n).find? f = some i := by
  rw [List.find?_eq_some_iff_getElem]
  refine ⟨hi, i.val, by simp, by simp, fun j hj => ?_⟩
  simpa using h ⟨j, by omega⟩ hj

theorem bulkWaiting_iff (s : State) (r : RingId) :
    s.bulkWaiting r = true ↔ ∃ q, (s.ctx r).work = .loading q false := by
  unfold State.bulkWaiting
  split
  · next q hw => exact iff_of_true rfl ⟨q, hw⟩
  · next hno => exact iff_of_false nofun fun ⟨q, hw⟩ => hno q hw

theorem bulkWaiting_eq_false (s : State) (r : RingId) (h : ∀ q, (s.ctx r).work ≠ .loading q false) :
    s.bulkWaiting r = false :=
  Bool.eq_false_iff.2 fun hw => by
    obtain ⟨q, hq⟩ := (bulkWaiting_iff s r).1 hw
    exact h q hq

theorem any_bulkWaiting_eq_false (s : State) (h : ∀ i q, (s.ctx i).work ≠ .loading q false) :
    (List.finRange 8).any s.bulkWaiting = false :=
  List.any_eq_false.2 fun i _ => Bool.eq_false_iff.1 (bulkWaiting_eq_false s i (h i))

theorem adminEligible_iff (s : State) : s.adminEligible = true ↔
    0 < (s.admin.producer + s.admin.size - s.admin.fetch) % s.admin.size ∧ s.admin.buffer.length < 2 := by
  rw [State.adminEligible, Bool.and_eq_true, decide_eq_true_eq, decide_eq_true_eq]
  rfl

theorem ringEligible_iff (s : State) (r : RingId) : s.ringEligible r = true ↔ (s.ring r).state = .active ∧
    0 < ((s.ring r).producer + (s.ring r).config.size - (s.ring r).fetch) % (s.ring r).config.size ∧
    (s.ring r).buffer.length < 4 := by
  rw [State.ringEligible, Bool.and_eq_true, Bool.and_eq_true, decide_eq_true_eq, decide_eq_true_eq,
    decide_eq_true_eq, and_assoc]
  rfl

/-- The first eligible ring after the one last chosen (R103). -/
theorem find?_ringsAfter {f : RingId → Bool} {r : RingId} {k : Nat} (hk : k < 8)
    (hbefore : ∀ j, j < k → f (r + 1 + Fin.ofNat 8 j) = false) (hf : f (r + 1 + Fin.ofNat 8 k) = true) :
    (ringsAfter r).find? f = some (r + 1 + Fin.ofNat 8 k) := by
  rw [List.find?_eq_some_iff_getElem]
  refine ⟨hf, k, (length_ringsAfter _).symm ▸ hk, getElem_ringsAfter _ _ _, fun j hj => ?_⟩
  rw [getElem_ringsAfter, hbefore j hj]
  rfl

/-! ### With a place free (R170) -/

section
variable {s : State} {p : PlaceId} (ha : s.readsAllowed = true) (hp : s.freePlace = some p)

include ha in
/-- While a bulk data read waits no fetch read is issued (R123). -/
theorem exec_fetchReadIssue_bulk {r : RingId} (hr : s.bulkWaiting r = true) : exec .fetchReadIssue s = .next s := by
  have hany : (List.finRange 8).any s.bulkWaiting = true := List.any_eq_true.2 ⟨r, List.mem_finRange r, hr⟩
  change execFetchReadIssue s = _
  simp [execFetchReadIssue, ha, hany]

include ha hp

theorem exec_bulkDataReadIssue {r : RingId} {q : Request} {f n : Nat} {h : HostAddr}
    (hw : (s.ctx r).work = .loading q false) (hq : q.body = .bulkWrite f n h)
    (hlow : ∀ i, i < r → s.bulkWaiting i = false) : exec .bulkDataReadIssue s = .next
      ((s.setPlace p (some ⟨.bulk r, h, 16 * n, 0, (s.ring r).generation, true, 0⟩)).setWork r (.loading q true)) := by
  have hfirst := find?_finRange_eq_some ((bulkWaiting_iff s r).2 ⟨q, hw⟩) hlow
  change execBulkDataReadIssue s = _
  simp only [execBulkDataReadIssue, ha, hp, hfirst, State.issueBulkRead, hw, hq, if_true]

theorem exec_fetchReadIssue_admin (hn : (List.finRange 8).any s.bulkWaiting = false) (he : s.adminEligible = true) :
    exec .fetchReadIssue s = .next (s.issueAdminFetch p) := by
  change execFetchReadIssue s = _
  simp [execFetchReadIssue, ha, hp, hn, he]

theorem exec_fetchReadIssue_ring (hn : (List.finRange 8).any s.bulkWaiting = false) (he : s.adminEligible = false)
    {r : RingId} (hr : (ringsAfter s.lastChosen).find? s.ringEligible = some r) :
    exec .fetchReadIssue s = .next (s.issueRingFetch p r) := by
  change execFetchReadIssue s = _
  simp [execFetchReadIssue, ha, hp, hn, he, hr]

end

/-- With no bulk data read waiting none is issued (log entry 2). -/
theorem exec_bulkDataReadIssue_idle (s : State) (hn : (List.finRange 8).any s.bulkWaiting = false) :
    exec .bulkDataReadIssue s = .next s := by
  have hnone : (List.finRange 8).find? s.bulkWaiting = none := List.find?_eq_none.2 (List.any_eq_false.1 hn)
  change execBulkDataReadIssue s = _
  simp [execBulkDataReadIssue, hnone]

/-- With no place free, outside RUNNING or with bus mastering disabled no read is issued (R103, R170, R173). -/
theorem exec_issue_barred (s : State) (h : s.readsAllowed = false ∨ s.freePlace = none) :
    exec .bulkDataReadIssue s = .next s ∧ exec .fetchReadIssue s = .next s := by
  change execBulkDataReadIssue s = _ ∧ execFetchReadIssue s = _
  obtain h | h := h
  · simp [execBulkDataReadIssue, execFetchReadIssue, h]
  · simp [execBulkDataReadIssue, execFetchReadIssue, h]

/-- Settles O16: the waiting bulk data read comes first, then the admin ring, then the request rings in turn. -/
theorem readsAreIssuedInTheirOrder : Obligations.ReadsAreIssuedInTheirOrder := by
  refine ⟨fun s p hd hbus hp hlow => ?_, fun s => ⟨adminEligible_iff s, ringEligible_iff s⟩, fun s h => ?_⟩
  · have hallowed : s.readsAllowed = true := by simp [State.readsAllowed, hd, hbus]
    have hplace : s.freePlace = some p :=
      find?_finRange_eq_some (by simp [hp]) fun i hi => by simpa [Option.isSome_iff_ne_none] using hlow i hi
    refine ⟨fun r q f n h hw hq hfirst => ⟨?_, ?_⟩, fun hnone => ?_⟩
    · exact exec_bulkDataReadIssue hallowed hplace hw hq fun i hi => bulkWaiting_eq_false s i (hfirst i hi)
    · exact exec_fetchReadIssue_bulk hallowed ((bulkWaiting_iff s r).2 ⟨q, hw⟩)
    · have hidle := any_bulkWaiting_eq_false s hnone
      refine ⟨exec_bulkDataReadIssue_idle s hidle, ?_, fun he k hk hbefore hr => ?_⟩
      · exact exec_fetchReadIssue_admin hallowed hplace hidle
      · exact exec_fetchReadIssue_ring hallowed hplace hidle he (find?_ringsAfter hk hbefore hr)
  · refine exec_issue_barred s ?_
    obtain h | h | h := h
    · exact .inl (by simp [State.readsAllowed, h])
    · exact .inl (by simp [State.readsAllowed, h])
    · exact .inr (by simp [State.freePlace, h])

end Sys2Proof.Machine
end

section
/-! PROOFS. Data that reads return (R104, R124, R152, R170, R172): a current return is handed to its owner, and what
arrives in a buffer and in the staging buffer. -/

namespace Sys2Proof.Machine

-- One proof at a time: each further thread of the compile takes 1 GB of the check's fixed memory.
set_option Elab.async false

/-! ### Arrivals (R104, R124) -/

/-- Slots that arrive leave the others alone. -/
theorem getElem?_arriveSlots_outside (b : List (Option Slot)) (k : Nat) (data : List Slot) {i : Nat}
    (hi : i < k ∨ k + data.length ≤ i) : (arriveSlots b k data)[i]? = b[i]? := by
  induction data generalizing b k with
  | nil => rfl
  | cons x xs ih =>
    rw [List.length_cons] at hi
    rw [arriveSlots, ih _ _ (by omega), List.getElem?_set_ne (by omega)]

/-- Each slot that arrives stands at its place of the buffer. -/
theorem getElem?_arriveSlots_inside (b : List (Option Slot)) (k : Nat) (data : List Slot) {j : Nat} {v : Slot}
    (hv : data[j]? = some v) (hj : k + j < b.length) : (arriveSlots b k data)[k + j]? = some (some v) := by
  induction data generalizing b k j with
  | nil => cases hv
  | cons x xs ih =>
    rw [arriveSlots]
    cases j with
    | zero =>
      rw [List.getElem?_cons_zero] at hv
      rw [getElem?_arriveSlots_outside _ _ _ (.inl (by omega)), Nat.add_zero, List.getElem?_set_self (by omega), hv]
    | succ j =>
      rw [List.getElem?_cons_succ] at hv
      rw [show k + (j + 1) = k + 1 + j by omega]
      exact ih _ _ hv (by rw [List.length_set]; omega)

/-- Consecutive cells from the start of a buffer hold the bytes that were written, and the rest is left alone (R2). -/
theorem readByte_writeCells_zero (m : List Host.Cell) (vs : List CellValue) (h : Memory.wf m = true) (a : Nat) :
    readByte (writeCells m 0 vs) a =
      if a < 16 * vs.length then cellByte (vs.getD (a / 16) 0) (a % 16) else readByte m a := by
  have hbyte (n : List Host.Cell) : readByte n a = cellByte (readCell n (a / 16)) (a % 16) := by
    rw [cellByte_readCell n _ _ (Nat.mod_lt _ (by decide)), Nat.div_add_mod]
  rw [hbyte]
  split
  · next ha =>
    have hlt : a / 16 < vs.length := by omega
    have hcell := readCell_writeCells m 0 vs h (a / 16) hlt
    rw [Nat.zero_add] at hcell
    rw [hcell, List.getD_eq_getElem _ _ hlt]
  · rw [readCell_writeCells_of_outside m 0 (a / 16) vs h (by omega), ← hbyte]

/-! ### A current return (R171, R172) -/

section
variable {s : State} {p : PlaceId} {x : Read}

/-- Data of the asked length that comes in time releases its place and is handed over (R172). -/
theorem returnData_taken (ht : x.ticks < 50000) {n : Nat} (hn : n = x.length) (hr : s.returnTaken x = true)
    (f : State → State) : s.returnData p x n f = f (s.setPlace p none) := by
  rw [State.returnData, if_neg (Nat.not_le.2 ht), if_pos hn, if_pos hr]
  rfl

variable (hd : s.device = .running) (hm : x.deviceMark = true)
include hd hm

theorem returnTaken_fetch {r : RingId} (ho : x.owner = .fetch r) (hg : x.ownerMark = (s.ring r).generation) :
    s.returnTaken x = true := by
  simp [State.returnTaken, State.isCurrent, hd, hm, ho, hg]

theorem returnTaken_bulk {r : RingId} (ho : x.owner = .bulk r) (hg : x.ownerMark = (s.ring r).generation) :
    s.returnTaken x = true := by
  simp [State.returnTaken, State.isCurrent, hd, hm, ho, hg]

theorem returnTaken_adminFetch (ho : x.owner = .adminFetch) : s.returnTaken x = true := by
  simp [State.returnTaken, State.isCurrent, hd, hm, ho]

end

theorem bulkData_loading {s : State} {r : RingId} {q : Request} (h : (s.ctx r).work = .loading q true)
    (data : List CellValue) : s.bulkData r data = s.setCtx r
      { s.ctx r with work := .running q, staging := writeCells (s.ctx r).staging 0 data, progress := 0 } := by
  simp [State.bulkData, h]

theorem bulkData_other {s : State} {r : RingId} (h : ∀ q, (s.ctx r).work ≠ .loading q true) (data : List CellValue) :
    s.bulkData r data = s := by
  unfold State.bulkData
  dsimp only
  split
  · next q hq => exact absurd hq (h q)
  · rfl

/-- Settles O17: the return is taken, and each owner's buffer takes the data. -/
theorem returnedDataReachesItsOwner : Obligations.ReturnedDataReachesItsOwner := by
  refine fun s p x hd hp hm ht => ⟨fun r data ho hg hn => ?_, fun data ho hn => ?_, fun r data ho hg hn => ?_⟩
  · rw [exec_fetchReadReturn hp ho, returnData_taken ht hn (returnTaken_fetch hd hm ho hg)]
    refine ⟨fun hst => congrArg _ (if_neg hst), fun hst => ⟨_, congrArg _ (if_pos hst), length_arriveSlots _ _ _, ?_⟩⟩
    rw [length_arriveSlots]
    exact ⟨fun k v hv hk => getElem?_arriveSlots_inside _ _ _ hv hk,
      fun i hi => getElem?_arriveSlots_outside _ _ _ hi⟩
  · rw [exec_adminFetchReturn hp ho, returnData_taken ht hn (returnTaken_adminFetch hd hm ho)]
    refine ⟨_, rfl, length_arriveSlots _ _ _, ?_⟩
    rw [length_arriveSlots]
    exact ⟨fun k v hv hk => getElem?_arriveSlots_inside _ _ _ hv hk,
      fun i hi => getElem?_arriveSlots_outside _ _ _ hi⟩
  · rw [exec_bulkDataReturn hp ho, returnData_taken ht hn (returnTaken_bulk hd hm ho hg)]
    refine ⟨fun hno => congrArg _ (bulkData_other (s := s.setPlace p none) hno data), fun q hq hwf => ?_⟩
    exact ⟨_, congrArg _ (bulkData_loading (s := s.setPlace p none) hq data), readByte_writeCells_zero _ _ hwf⟩

end Sys2Proof.Machine
end

section
/-! PROOFS. Fetch events and the end of draining (R96, R106): when an event enters the outcome holder, and when a
DRAINING ring has nothing left to drain. -/

namespace Sys2Proof.Machine

-- One proof at a time: each further thread of the compile takes 1 GB of the check's fixed memory.
set_option Elab.async false

theorem anyRead_iff (s : State) (f : Read → Bool) :
    s.anyRead f = true ↔ ∃ p x, s.place p = some x ∧ f x = true := by
  simp only [State.anyRead, List.any_eq_true, List.mem_finRange, true_and]
  refine exists_congr fun p => ?_
  split
  · next x hx => simp [hx]
  · next hx => simp [hx]

/-- What the end of draining needs (R96). -/
theorem drained_iff (s : State) (r : RingId) : s.drained r = true ↔
    (s.ctx r).work = .empty ∧ ∀ p x, s.place p = some x → x.owner ≠ .fetch r := by
  rw [State.drained, Bool.and_eq_true, decide_eq_true_eq, Bool.not_eq_true', Bool.eq_false_iff, Ne, anyRead_iff]
  simp [Read.isFetchOf]

/-- Settles O20: the event enters an EMPTY context as its outcome, and draining ends once nothing is left to drain. -/
theorem fetchEventsEnterAndDrainingEnds : Obligations.FetchEventsEnterAndDrainingEnds := by
  refine ⟨fun s r e hd he => ?_, fun s r hd hst => ?_⟩
  · have hexec : exec (.fetchEventEntry r) s = .next (if (s.ctx r).work = .empty then
        (s.setCtx r { s.ctx r with event := none }).finish r false (fetchEventReport e) else s) := by
      change execFetchEventEntry r s = _
      simp [execFetchEventEntry, he, hd]
    rw [hexec]
    refine ⟨fun hw => ?_, fun hw => congrArg _ (if_neg hw)⟩
    rw [if_pos hw, State.finish_reported _ _ _ _ (.inl rfl), State.setWork, State.setCtx_setCtx, State.ctx_setCtx_self]
    rfl
  · have hexec : exec (.drainEnd r) s =
        .next (if s.drained r then s.setRing r { s.ring r with state := .stopped } else s) := by
      change execDrainEnd r s = _
      simp [execDrainEnd, hd, hst]
    rw [hexec]
    refine ⟨fun hw hreads => congrArg _ (if_pos ((drained_iff s r).2 ⟨hw, hreads⟩)),
      fun hleft => congrArg _ (if_neg ?_)⟩
    rw [drained_iff]
    rintro ⟨hw, hreads⟩
    obtain h | ⟨p, x, hp, ho⟩ := hleft
    · exact h hw
    · exact hreads p x hp ho

end Sys2Proof.Machine
end

section
/-! PROOFS. The turn of a record (R108 to R110, R153): what the commands that take records wait for. -/

namespace Sys2Proof.Machine

-- One proof at a time: each further thread of the compile takes 1 GB of the check's fixed memory.
set_option Elab.async false

/-! ### Admin records (R153) -/

/-- The commands that take admin records. -/
theorem exec_admin_takes {c : Instr} (s : State)
    (hc : c ∈ [Instr.adminNop, .adminUnknownKind, .configureRequestRing, .configureCompletionRing, .startRing,
      .stopRing, .resetRing, .resetCompletionRing, .cancelHolds, .clearCells, .readStatus]) :
    ∃ k f, exec c s = .next (s.takeAdmin k f) := by
  simp only [List.mem_cons, List.not_mem_nil, or_false] at hc
  obtain rfl | rfl | rfl | rfl | rfl | rfl | rfl | rfl | rfl | rfl | rfl := hc
  all_goals exact ⟨_, _, rfl⟩

theorem oldestAdmin_eq_none (s : State)
    (h : s.device ≠ .running ∨ s.adminCtx ≠ .empty ∨ ∀ x rest, s.admin.buffer ≠ some x :: rest) :
    s.oldestAdmin = none := by
  unfold State.oldestAdmin
  split
  · next hc =>
    simp only [Bool.and_eq_true, decide_eq_true_eq] at hc
    obtain ⟨hd, ha⟩ := hc
    split
    · next x rest hb => exact h.elim (absurd hd) fun h => h.elim (absurd ha) fun h => absurd hb (h x rest)
    · rfl
  · rfl

theorem takeAdmin_none {s : State} (h : s.oldestAdmin = none) (k : Option AdminKind) (f : State → Slot → State) :
    s.takeAdmin k f = s := by
  simp [State.takeAdmin, h]

/-! ### Records of the request rings (R108, R109) -/

/-- The kind codes of the request rings (Table 11-6), with 7 for an unknown kind. -/
def kindNumber : Option RequestKind → Nat
  | some .nop => 1
  | some .update => 2
  | some .hold => 3
  | some .bulkRead => 4
  | some .bulkWrite => 5
  | some .cancel => 6
  | none => 7

theorem kindNumber_requestKind (b : Byte) :
    kindNumber (requestKind b) = if 1 ≤ b.toNat ∧ b.toNat ≤ 6 then b.toNat else 7 := by
  cases hk : requestKind b with
  | none =>
    have := (requestKind_eq_none_iff b).1 hk
    rw [if_neg (by omega)]
    rfl
  | some k =>
    unfold requestKind at hk
    split at hk <;> cases hk
    all_goals next hb => rw [hb]; rfl

/-- The commands that take records of ring `r`, by their kinds. -/
theorem exec_takes {c : Instr} {k : Nat} (s : State) (r : RingId)
    (hc : (c, k) ∈ [(Instr.nop r, 1), (.update r, 2), (.hold r, 3), (.bulkRead r, 4), (.bulkWrite r, 5), (.cancel r, 6),
      (.unknownKind r, 7)]) :
    ∃ kind, kindNumber kind = k ∧ exec c s = .next (if k = 3 then s.takeHold r else s.takeKind r kind) := by
  simp only [List.mem_cons, List.not_mem_nil, or_false, Prod.mk.injEq] at hc
  obtain ⟨rfl, rfl⟩ | ⟨rfl, rfl⟩ | ⟨rfl, rfl⟩ | ⟨rfl, rfl⟩ | ⟨rfl, rfl⟩ | ⟨rfl, rfl⟩ | ⟨rfl, rfl⟩ := hc
  · exact ⟨some .nop, rfl, rfl⟩
  · exact ⟨some .update, rfl, rfl⟩
  · exact ⟨some .hold, rfl, rfl⟩
  · exact ⟨some .bulkRead, rfl, rfl⟩
  · exact ⟨some .bulkWrite, rfl, rfl⟩
  · exact ⟨some .cancel, rfl, rfl⟩
  · exact ⟨none, rfl, rfl⟩

section
variable {s : State} {r : RingId}

theorem takeKind_none (h : s.oldestSlot r = none) (k : Option RequestKind) : s.takeKind r k = s := by
  simp [State.takeKind, h]

theorem takeHold_none (h : s.oldestSlot r = none ∨ s.secondSlot r = none) : s.takeHold r = s := by
  unfold State.takeHold
  split
  · next x y hx hy =>
    obtain h | h := h
    · rw [h] at hx; cases hx
    · rw [h] at hy; cases hy
  · rfl

/-- No record of another kind is taken. -/
theorem takeKind_other {x : Slot} (h : ∀ y, s.oldestSlot r = some y → y = x) {k : Option RequestKind}
    (hk : requestKind (slotKind x) ≠ k) : s.takeKind r k = s := by
  unfold State.takeKind
  split
  · next y hy => rw [h y hy, if_neg hk]
  · rfl

theorem takeHold_other {x : Slot} (h : ∀ y, s.oldestSlot r = some y → y = x)
    (hk : requestKind (slotKind x) ≠ some .hold) : s.takeHold r = s := by
  unfold State.takeHold
  split
  · next y z hy _ => rw [h y hy, if_neg hk]
  · rfl

end

/-- Settles O23: no command takes a record but as the oldest one of its kind, in its turn. -/
theorem recordsWaitForTheirTurn : Obligations.RecordsWaitForTheirTurn := by
  refine ⟨fun s h c hc => ?_, fun s r c k hc => ?_⟩
  · obtain ⟨k, f, hexec⟩ := exec_admin_takes s hc
    rw [hexec, takeAdmin_none (oldestAdmin_eq_none s h)]
  obtain ⟨kind, hkind, hexec⟩ := exec_takes s r hc
  have unready (h : s.oldestSlot r = none) : exec c s = .next s := by
    rw [hexec, takeHold_none (.inl h), takeKind_none h, ite_self]
  refine ⟨fun h => unready ?_, fun h => unready ?_, fun hk h => ?_, fun x rest hb hne => ?_⟩
  · refine Option.eq_none_iff_forall_ne_some.2 fun x hx => ?_
    obtain ⟨⟨hd, ha, hw, he⟩, -⟩ := (oldestSlot_eq_some_iff s r x).1 hx
    exact h.elim (absurd hd) fun h => h.elim (absurd ha) fun h => h.elim (absurd hw) (absurd he)
  · refine Option.eq_none_iff_forall_ne_some.2 fun x hx => ?_
    obtain ⟨-, rest, hb⟩ := (oldestSlot_eq_some_iff s r x).1 hx
    exact h x rest hb
  · rw [hexec, if_pos hk]
    cases hx : s.oldestSlot r with
    | none => rw [takeHold_none (.inl hx)]
    | some x =>
      obtain ⟨-, rest, hb⟩ := (oldestSlot_eq_some_iff s r x).1 hx
      refine congrArg _ (takeHold_none (.inr (Option.eq_none_iff_forall_ne_some.2 fun y hy => ?_)))
      obtain ⟨z, rest', hb'⟩ := (secondSlot_eq_some_iff s r y).1 hy
      rw [hb] at hb'
      cases hb'
      exact h x y rest' hb
  · have hold (y : Slot) (hy : s.oldestSlot r = some y) : y = x := by
      obtain ⟨-, rest', hb'⟩ := (oldestSlot_eq_some_iff s r y).1 hy
      rw [hb] at hb'
      cases hb'
      rfl
    have hother : requestKind (slotKind x) ≠ kind := fun h => by
      rw [← hkind, ← h, kindNumber_requestKind] at hne
      exact hne rfl
    rw [hexec]
    split
    · next hk =>
      refine congrArg _ (takeHold_other hold fun h => hne ?_)
      rw [hk, ← kindNumber_requestKind]
      exact congrArg kindNumber h
    · exact congrArg _ (takeKind_other hold hother)

end Sys2Proof.Machine
end

section
/-! PROOFS. The start of a request (R110, R114, R115, R118 to R120, R123): as its record is taken, or when its fence
opens. -/

namespace Sys2Proof.Machine

-- One proof at a time: each further thread of the compile takes 1 GB of the check's fixed memory.
set_option Elab.async false

/-! ### Starting, by the body of the request (R110) -/

section
variable (s : State) (r : RingId) {q : Request}

theorem startRequest_update {act : Action} (h : q.body = .update act) :
    s.startRequest r q = s.setCtx r { s.ctx r with work := .running q } := by
  simp only [State.startRequest, h, State.setWork]

theorem startRequest_hold {act : Action} {cond : Condition} {timeout : BitVec 32}
    (h : q.body = .hold act cond timeout) :
    s.startRequest r q = s.setCtx r { s.ctx r with work := .running q } := by
  simp only [State.startRequest, h, State.setWork]

theorem startRequest_bulkRead {f n : Nat} {a : HostAddr} (h : q.body = .bulkRead f n a) : s.startRequest r q =
    s.setCtx r { s.ctx r with work := .running q, progress := 0, changedMark := false } := by
  simp only [State.startRequest, h, setWork_clearProgress]

theorem startRequest_bulkWrite {f n : Nat} {a : HostAddr} (h : q.body = .bulkWrite f n a) : s.startRequest r q =
    s.setCtx r { s.ctx r with work := .loading q false, progress := 0, changedMark := false } := by
  simp only [State.startRequest, h, setWork_clearProgress]

/-- The outcome of a request that ends OK with count 0 (R111). -/
def State.doneReport (s : State) (h : Header) : Report :=
  ⟨.ok, h.kind, h.tag, ⟨false, false, false⟩, none, 0, s.timeBase.setWidth 32⟩

theorem startRequest_nop (h : q.body = .nop) :
    s.startRequest r q = s.finish r q.header.quiet (s.doneReport q.header) := by
  simp only [State.startRequest, h]
  rfl

/-- No entry of a ring without ARMED entries matches a CANCEL (R84). -/
theorem cancelMatches_eq_nil (h : s.armedCount r = 0) (value mask : BitVec 16) :
    s.cancelMatches [r] value mask = [] := by
  have hnone : s.armedEntries (fun x => x.origin = r) = [] := List.eq_nil_of_length_eq_zero h
  refine List.eq_nil_iff_forall_not_mem.2 fun e he => ?_
  obtain ⟨x, hx, harmed, hmatch⟩ := (armedWith_iff ..).1 ((mem_armedEntries ..).1 he)
  have horigin : x.origin = r := by
    simp only [Bool.and_eq_true, List.contains_eq_mem, List.mem_singleton, decide_eq_true_eq] at hmatch
    exact hmatch.1
  have hmem : e ∈ s.armedEntries (fun x => x.origin = r) :=
    (mem_armedEntries ..).2 ((armedWith_iff ..).2 ⟨x, hx, harmed, decide_eq_true horigin⟩)
  rw [hnone] at hmem
  cases hmem

/-- A CANCEL of a ring without ARMED entries ends none (R84). -/
theorem startRequest_cancel {value mask : BitVec 16} (h : q.body = .cancel value mask) (ha : s.armedCount r = 0) :
    s.startRequest r q = s.finish r q.header.quiet (s.doneReport q.header) := by
  simp only [State.startRequest, h, State.runCancel, cancelMatches_eq_nil s r ha]
  rfl

/-- A request that ends OK leaves its context EMPTY when it is QUIET, and is reported otherwise (R143). -/
theorem finish_done (hd : Header) :
    (hd.quiet = true → s.finish r hd.quiet (s.doneReport hd) = s.setCtx r { s.ctx r with work := .empty }) ∧
    (hd.quiet = false → s.finish r hd.quiet (s.doneReport hd) =
      (s.setCtx r { s.ctx r with work := .reporting (s.doneReport hd) }).joinList
        (s.ring r).config.cring (.ring r)) := by
  refine ⟨fun hq => ?_, fun hq => ?_⟩
  · rw [hq]; exact s.finish_quiet r _ rfl
  · rw [hq]; exact s.finish_reported r _ _ (.inl rfl)

end

/-! ### Fences (R115) -/

/-- Settles O26: with no ARMED entry left the request starts by its body. -/
theorem fencesOpenWithTheLastArmedEntry : Obligations.FencesOpenWithTheLastArmedEntry := by
  intro s r q hw u
  have hfence : s.releaseFence r =
      if s.device = .running ∧ s.armedCount r = 0 then s.startRequest r q else s := by
    simp only [State.releaseFence, hw, Bool.and_eq_true, decide_eq_true_eq]
  refine ⟨fun h => ?_, fun hd ha => ?_⟩
  · rw [hfence, if_neg]
    rintro ⟨hd, ha⟩
    exact h.elim (absurd hd) (absurd ha)
  rw [hfence, if_pos ⟨hd, ha⟩]
  refine ⟨fun act hq => startRequest_update s r hq, fun act cond timeout hq => startRequest_hold s r hq,
    fun f n h hq => startRequest_bulkRead s r hq, fun f n h hq => startRequest_bulkWrite s r hq, fun hq => ?_⟩
  have hend : s.startRequest r q = s.finish r q.header.quiet (s.doneReport q.header) := by
    obtain hq | ⟨value, mask, hq⟩ := hq
    · exact startRequest_nop s r hq
    · exact startRequest_cancel s r hq ha
  rw [hend]
  exact finish_done s r q.header

/-! ### Records that pass validation (R31, R110) -/

section
variable {g : RingConfig} {x : Slot} {y : Option Slot} {body : Body}

theorem body_of_nop (h : validateRequest g x y = .ok body) (hk : (slotByte x 0).toNat = 1) : body = .nop := by
  simp only [validateRequest, requestKind, slotKind, hk, Except.ok.injEq] at h
  exact h.symm

theorem body_of_update (h : validateRequest g x y = .ok body) (hk : (slotByte x 0).toNat = 2) :
    ∃ act, body = .update act := by
  simp only [validateRequest, requestKind, slotKind, hk, validateUpdate] at h
  split at h
  · cases h
  · split at h <;> cases h
    exact ⟨_, rfl⟩

theorem body_of_hold (h : validateRequest g x y = .ok body) (hk : (slotByte x 0).toNat = 3) :
    ∃ act cond timeout, body = .hold act cond timeout := by
  simp only [validateRequest, requestKind, slotKind, hk, validateHold] at h
  split at h
  · split at h
    · split at h <;> cases h
      exact ⟨_, _, _, rfl⟩
    · cases h
  · cases h

theorem body_of_bulkRead (h : validateRequest g x y = .ok body) (hk : (slotByte x 0).toNat = 4) :
    ∃ f n a, body = .bulkRead f n a := by
  simp only [validateRequest, requestKind, slotKind, hk, validateBulk] at h
  split at h
  · cases h
  · split at h <;> cases h
    exact ⟨_, _, _, rfl⟩

theorem body_of_bulkWrite (h : validateRequest g x y = .ok body) (hk : (slotByte x 0).toNat = 5) :
    ∃ f n a, body = .bulkWrite f n a := by
  simp only [validateRequest, requestKind, slotKind, hk, validateBulk] at h
  split at h
  · cases h
  · split at h <;> cases h
    exact ⟨_, _, _, rfl⟩

/-- A record that passes validation leaves the buffer and goes to its fence or starts (R110, R115). -/
theorem takeRecord_valid (s : State) {r : RingId} (h : validateRequest (s.ring r).config x y = .ok body) (n : Nat) :
    s.takeRecord r x y n =
      if (slotHeader x).fence = true ∧ s.armedCount r ≠ 0 then
        (s.consumeSlots r n).setWork r (.waitFence ⟨slotHeader x, body⟩)
      else (s.consumeSlots r n).startRequest r ⟨slotHeader x, body⟩ := by
  simp only [State.takeRecord, h, State.fenceOrStart, Bool.and_eq_true, decide_eq_true_eq]
  rfl

end

/-- Settles O24: the record is the oldest of its kind, and its request waits or starts by its body. -/
theorem validRequestsStartOrWaitAtTheirFence : Obligations.ValidRequestsStartOrWaitAtTheirFence := by
  intro s r x y rest body hd ha hw he h u after
  have hold {z : List (Option Slot)} (hb : (s.ring r).buffer = some x :: z) := oldestSlot_eq s hd ha hw he hb
  refine ⟨rfl, fun hb hv => ?_, fun hb hv hk => ?_⟩
  · have hafter (z : RingContext) : (s.consumeSlots r 1).setCtx r z = after 1 z := by rw [consumeSlots_one hb]
    have taken {kind : Option RequestKind} (hk : requestKind (slotKind x) = kind) :=
      (takeKind_oldest s (hold hb) hk).trans (takeRecord_valid s hv 1)
    refine ⟨fun hf harmed c k hc hk => ?_, fun hopen => ?_⟩
    · rw [if_pos ⟨hf, harmed⟩] at taken
      simp only [List.mem_cons, List.not_mem_nil, or_false, Prod.mk.injEq] at hc
      rw [← hafter]
      obtain ⟨rfl, rfl⟩ | ⟨rfl, rfl⟩ | ⟨rfl, rfl⟩ | ⟨rfl, rfl⟩ | ⟨rfl, rfl⟩ := hc
      all_goals exact congrArg _ (taken (by simp [requestKind, slotKind, hk]))
    rw [if_neg (by rintro ⟨hf, harmed⟩; exact hopen.elim (by rw [hf]; nofun) harmed)] at taken
    have nop (hk : (slotByte x 0).toNat = 1) : exec (.nop r) s =
        .next ((s.consumeSlots r 1).finish r h.quiet ((s.consumeSlots r 1).doneReport h)) :=
      congrArg _ ((taken (by simp [requestKind, slotKind, hk])).trans (startRequest_nop _ r (body_of_nop hv hk)))
    obtain ⟨hquiet, hreported⟩ := finish_done (s.consumeSlots r 1) r h
    refine ⟨fun hk hq => ?_, fun hk hq => ?_, fun hk => ?_, fun hk => ?_, fun hk => ?_⟩
    · have hu : { u with work := .empty } = u := by rw [← hw]
      rw [nop hk, hquiet hq, ← hu, ← hafter]
      rfl
    · have hcode : h.kind = 1 := BitVec.eq_of_toNat_eq hk
      have hring : ((s.consumeSlots r 1).ring r).config = (s.ring r).config := by
        rw [State.consumeSlots, State.ring_setRing_self]
      rw [nop hk, hreported hq, hring, ← hafter, ← hcode]
      rfl
    · obtain ⟨act, hbody⟩ := body_of_update hv hk
      rw [← hafter]
      exact congrArg _ ((taken (by simp [requestKind, slotKind, hk])).trans (startRequest_update _ r hbody))
    · obtain ⟨f, n, a, hbody⟩ := body_of_bulkRead hv hk
      rw [← hafter]
      exact congrArg _ ((taken (by simp [requestKind, slotKind, hk])).trans (startRequest_bulkRead _ r hbody))
    · obtain ⟨f, n, a, hbody⟩ := body_of_bulkWrite hv hk
      rw [← hafter]
      exact congrArg _ ((taken (by simp [requestKind, slotKind, hk])).trans (startRequest_bulkWrite _ r hbody))
  · have hafter (z : RingContext) : (s.consumeSlots r 2).setCtx r z = after 2 z := by
      simp [State.consumeSlots, hb, after]
    have hkind : requestKind (slotKind x) = some .hold := by simp [requestKind, slotKind, hk]
    have taken := (takeHold_oldest s (hold hb) hb hkind).trans (takeRecord_valid s hv 2)
    refine ⟨fun hf harmed => ?_, fun hopen => ?_⟩
    · rw [if_pos ⟨hf, harmed⟩] at taken
      rw [← hafter]
      exact congrArg _ taken
    · rw [if_neg (by rintro ⟨hf, harmed⟩; exact hopen.elim (by rw [hf]; nofun) harmed)] at taken
      obtain ⟨act, cond, timeout, hbody⟩ := body_of_hold hv hk
      rw [← hafter]
      exact congrArg _ (taken.trans (startRequest_hold _ r hbody))

end Sys2Proof.Machine
end

section
/-! PROOFS. The configures (R92, R93, R99, R131, R155 to R157) and START RING and STOP RING (R94 to R96): what each
refuses, and what it makes of its ring. -/

namespace Sys2Proof.Machine

-- One proof at a time: each further thread of the compile takes 1 GB of the check's fixed memory.
set_option Elab.async false

/-! ### Ring numbers and outstanding reads (R99, R184) -/

theorem ringNumber_eq_some_iff (b : Byte) (r : RingId) : ringNumber b = some r ↔ b.toNat = r.val := by
  unfold ringNumber
  split
  · exact Option.some_inj.trans Fin.ext_iff
  · next h => exact ⟨nofun, fun hr => absurd r.isLt (hr ▸ h)⟩

theorem ringNumber_eq_none {b : Byte} (h : 8 ≤ b.toNat) : ringNumber b = none := dif_neg (Nat.not_lt.2 h)

theorem cringNumber_eq_none {b : Byte} (h : 4 ≤ b.toNat) : cringNumber b = none := dif_neg (Nat.not_lt.2 h)

/-- The reads that bar a change of ring `r` (R99). -/
theorem barred_iff (s : State) (r : RingId) : s.barred r = true ↔ ∃ p z, s.place p = some z ∧
    (z.owner = .fetch r ∨ z.owner = .bulk r) ∧ z.deviceMark = true ∧ z.ownerMark = (s.ring r).generation + 1 := by
  rw [State.barred, anyRead_iff]
  simp [Read.isReadOf, and_assoc]

theorem canConfigure_iff (s : State) (r : RingId) : s.canConfigure r = true ↔
    ((s.ring r).state = .unconfigured ∨ (s.ring r).state = .ready ∨ (s.ring r).state = .stopped) ∧ s.occ r = 0 ∧
      (s.ctx r).work = .empty ∧ ∀ p z, s.place p = some z → (z.owner = .fetch r ∨ z.owner = .bulk r) →
        z.deviceMark = true → z.ownerMark ≠ (s.ring r).generation + 1 := by
  have hbarred : (!s.barred r) = true ↔ ∀ p z, s.place p = some z → (z.owner = .fetch r ∨ z.owner = .bulk r) →
      z.deviceMark = true → z.ownerMark ≠ (s.ring r).generation + 1 := by
    rw [Bool.not_eq_true', Bool.eq_false_iff, Ne, barred_iff]
    push Not
    rfl
  simp only [State.canConfigure, Bool.and_eq_true, Bool.or_eq_true, decide_eq_true_eq, and_assoc, or_assoc, hbarred]

/-! ### The items of a completion ring (R157) -/

/-- The items of a CONFIGURE COMPLETION RING lie in their ranges (R157). -/
def CRingItemsInRange (x : Slot) : Prop :=
  (slotQuad x 16).toNat % 32 = 0 ∧ (slotHalf x 12).toNat ∈ [16, 32, 64, 128, 256, 512, 1024, 2048, 4096] ∧
    1 ≤ (slotByte x 10).toNat ∧ (slotByte x 10).toNat ≤ 64

theorem getLsbD_zero_eq_odd (b : Byte) : b.getLsbD 0 = decide (b.toNat % 2 = 1) := by
  simp [BitVec.getLsbD, Nat.testBit_zero]

theorem decodeCRingConfig_of_inRange {x : Slot} (h : CRingItemsInRange x) (list : List Source) :
    decodeCRingConfig x list = some ⟨true, slotQuad x 16, (slotHalf x 12).toNat,
      decide ((slotByte x 9).toNat % 2 = 1), (slotByte x 10).toNat, (slotHalf x 14).toNat, 0, 0, true, 0, none,
      list⟩ := by
  obtain ⟨hbase, hsize, hrest⟩ := h
  unfold decodeCRingConfig
  dsimp only
  rw [if_pos, getLsbD_zero_eq_odd]
  simp only [Bool.and_eq_true, decide_eq_true_eq, ringSizeValid_iff, and_assoc]
  exact ⟨hbase, hsize, hrest⟩

theorem decodeCRingConfig_of_not_inRange {x : Slot} (h : ¬ CRingItemsInRange x) (list : List Source) :
    decodeCRingConfig x list = none := by
  unfold decodeCRingConfig
  dsimp only
  rw [if_neg]
  simp only [Bool.and_eq_true, decide_eq_true_eq, ringSizeValid_iff, and_assoc]
  exact h

/-! ### The requests, branch by branch -/

section
variable {s : State} {x : Slot} {r : RingId}

theorem configureRing_items {g : RingConfig} (hr : ringNumber (slotByte x 8) = some r)
    (hg : decodeRingConfig x = some g) : s.configureRing x =
      if s.canConfigure r then (s.installRing r g).endAdmin x .ok else s.endAdmin x .ringState := by
  simp only [State.configureRing, hr, hg]

theorem configureRing_badConfig (hr : ringNumber (slotByte x 8) = some r) (hg : decodeRingConfig x = none) :
    s.configureRing x = s.endAdmin x .badConfig := by
  simp only [State.configureRing, hr, hg]

theorem configureCRing_items {c : CRingId} {y : CompletionRing} (hc : cringNumber (slotByte x 8) = some c)
    (hy : decodeCRingConfig x (s.cring c).list = some y) : s.configureCRing x =
      if (s.cring c).active then s.endAdmin x .ringState else (s.setCRing c y).endAdmin x .ok := by
  simp only [State.configureCRing, hc, hy]

theorem configureCRing_badConfig {c : CRingId} (hc : cringNumber (slotByte x 8) = some c)
    (hy : decodeCRingConfig x (s.cring c).list = none) : s.configureCRing x = s.endAdmin x .badConfig := by
  simp only [State.configureCRing, hc, hy]

theorem startRing_eq (hr : ringNumber (slotByte x 8) = some r) : s.startRing x =
    if (s.ring r).state = .ready ∨ (s.ring r).state = .stopped then
      (s.setRing r { s.ring r with state := .active }).endAdmin x .ok
    else s.endAdmin x .ringState := by
  simp only [State.startRing, hr, Bool.or_eq_true, decide_eq_true_eq]

theorem startRing_starts (hr : ringNumber (slotByte x 8) = some r)
    (h : (s.ring r).state = .ready ∨ (s.ring r).state = .stopped) :
    s.startRing x = (s.setRing r { s.ring r with state := .active }).endAdmin x .ok :=
  (startRing_eq hr).trans (if_pos h)

theorem startRing_refused (hr : ringNumber (slotByte x 8) = some r) (hready : (s.ring r).state ≠ .ready)
    (hstopped : (s.ring r).state ≠ .stopped) : s.startRing x = s.endAdmin x .ringState :=
  (startRing_eq hr).trans (if_neg (not_or.2 ⟨hready, hstopped⟩))

theorem stopRing_active (hr : ringNumber (slotByte x 8) = some r) (h : (s.ring r).state = .active) :
    s.stopRing x = (s.stopActive r).endAdmin x .ok := by
  simp only [State.stopRing, hr, h]

theorem stopRing_ok (hr : ringNumber (slotByte x 8) = some r)
    (h : (s.ring r).state = .draining ∨ (s.ring r).state = .stopped) : s.stopRing x = s.endAdmin x .ok := by
  rcases h with h | h <;> simp only [State.stopRing, hr, h]

theorem stopRing_refused (hr : ringNumber (slotByte x 8) = some r)
    (h : (s.ring r).state = .unconfigured ∨ (s.ring r).state = .ready ∨ (s.ring r).state = .faulted) :
    s.stopRing x = s.endAdmin x .ringState := by
  rcases h with h | h | h <;> simp only [State.stopRing, hr, h]

end

/-- The state once the oldest admin record has been taken (R153). -/
theorem consumeAdmin_oldest {s : State} {x : Slot} {rest : List (Option Slot)}
    (hb : s.admin.buffer = some x :: rest) : s.consumeAdmin =
    { s with admin := { s.admin with consumer := (s.admin.consumer + 1) % s.admin.size, buffer := rest } } := by
  simp [State.consumeAdmin, hb]

section
variable {s : State} {x : Slot} {rest : List (Option Slot)} (hd : s.device = .running) (ha : s.adminCtx = .empty)
  (hb : s.admin.buffer = some x :: rest)
include hd ha hb

theorem exec_configureRequestRing (hk : (slotByte x 0).toNat = 0x42) :
    exec .configureRequestRing s = .next (s.consumeAdmin.configureRing x) :=
  congrArg _ (takeAdmin_oldest hd ha hb (by simp [adminKind, slotKind, hk]) _)

theorem exec_configureCompletionRing (hk : (slotByte x 0).toNat = 0x43) :
    exec .configureCompletionRing s = .next (s.consumeAdmin.configureCRing x) :=
  congrArg _ (takeAdmin_oldest hd ha hb (by simp [adminKind, slotKind, hk]) _)

theorem exec_startRing (hk : (slotByte x 0).toNat = 0x44) :
    exec .startRing s = .next (s.consumeAdmin.startRing x) :=
  congrArg _ (takeAdmin_oldest hd ha hb (by simp [adminKind, slotKind, hk]) _)

theorem exec_stopRing (hk : (slotByte x 0).toNat = 0x45) :
    exec .stopRing s = .next (s.consumeAdmin.stopRing x) :=
  congrArg _ (takeAdmin_oldest hd ha hb (by simp [adminKind, slotKind, hk]) _)

end

/-! ### The obligations -/

/-- Settles O40: the checks of R153 in their order, then the ring that the items make. -/
theorem configuresInstallOrRefuse : Obligations.ConfiguresInstallOrRefuse := by
  intro s x rest hd ha hb taken ends ring b9 b10 size h14 base wb wc sizeOk
  have htaken : s.consumeAdmin = taken := consumeAdmin_oldest hb
  refine ⟨fun hk => ?_, fun hk => ?_⟩
  · intro inRange
    have hexec : exec .configureRequestRing s = .next (taken.configureRing x) :=
      htaken ▸ exec_configureRequestRing hd ha hb hk
    refine ⟨fun hout => ?_, fun hring hout => ?_, fun r c hring hin hc => ?_⟩
    · rw [hexec, State.configureRing, ringNumber_eq_none hout]
      rfl
    · have hnone : decodeRingConfig x = none :=
        Option.eq_none_iff_forall_ne_some.2 fun g hg => hout ((decodeRingConfig_eq_some_iff x g).1 hg).1
      rw [hexec, configureRing_badConfig ((ringNumber_eq_some_iff _ ⟨ring, hring⟩).2 rfl) hnone]
      rfl
    · have hitems : decodeRingConfig x = some ⟨base, size, c, b10, wb, wc, h14⟩ :=
        (decodeRingConfig_eq_some_iff x _).2 ⟨hin, hc, rfl⟩
      have hallowed := canConfigure_iff taken r
      rw [hexec, configureRing_items ((ringNumber_eq_some_iff _ r).2 hring) hitems]
      refine ⟨fun hno => ?_, fun hyes => ?_⟩
      · rw [if_neg (hallowed.not.2 hno)]
        rfl
      · rw [if_pos (hallowed.2 hyes)]
        rfl
  · intro inRange
    have hexec : exec .configureCompletionRing s = .next (taken.configureCRing x) :=
      htaken ▸ exec_configureCompletionRing hd ha hb hk
    refine ⟨fun hout => ?_, fun hring hout => ?_, fun c hring hin => ?_⟩
    · rw [hexec, State.configureCRing, cringNumber_eq_none hout]
      rfl
    · rw [hexec, configureCRing_badConfig ((cringNumber_eq_some_iff _ ⟨ring, hring⟩).2 rfl)
        (decodeCRingConfig_of_not_inRange hout _)]
      rfl
    · have hcring : (taken.cring c).active = (s.cring c).active := rfl
      rw [hexec, configureCRing_items ((cringNumber_eq_some_iff _ c).2 hring) (decodeCRingConfig_of_inRange hin _),
        hcring]
      refine ⟨fun hactive => ?_, fun hidle => ?_⟩
      · rw [if_pos hactive]
        rfl
      · rw [if_neg (Bool.eq_false_iff.1 hidle)]
        rfl

/-- Settles O41: START RING by the ring's state, and STOP RING by what is left to drain. -/
theorem startAndStopMoveTheRingState : Obligations.StartAndStopMoveTheRingState := by
  intro s x rest hd ha hb taken ends ring
  have htaken : s.consumeAdmin = taken := consumeAdmin_oldest hb
  refine ⟨fun hk => ?_, fun hk => ?_⟩
  · have hexec : exec .startRing s = .next (taken.startRing x) := htaken ▸ exec_startRing hd ha hb hk
    refine ⟨fun hout => ?_, fun r hring => ?_⟩
    · rw [hexec, State.startRing, ringNumber_eq_none hout]
      rfl
    have hr : ringNumber (slotByte x 8) = some r := (ringNumber_eq_some_iff _ r).2 hring
    refine ⟨fun hst => ?_, fun hready hstopped => ?_⟩
    · rw [hexec, startRing_starts (s := taken) hr hst]
      rfl
    · rw [hexec, startRing_refused (s := taken) hr hready hstopped]
      rfl
  · have hexec : exec .stopRing s = .next (taken.stopRing x) := htaken ▸ exec_stopRing hd ha hb hk
    refine ⟨fun hout => ?_, fun r hring => ?_⟩
    · rw [hexec, State.stopRing, ringNumber_eq_none hout]
      rfl
    intro y idle
    have hr : ringNumber (slotByte x 8) = some r := (ringNumber_eq_some_iff _ r).2 hring
    have hidle : taken.drained r = true ↔ idle := drained_iff taken r
    refine ⟨fun hst hi => ?_, fun hst hi => ?_, fun hst => ?_, fun hst => ?_⟩
    · rw [hexec, stopRing_active (s := taken) hr hst, State.stopActive, if_pos (hidle.2 hi)]
      rfl
    · rw [hexec, stopRing_active (s := taken) hr hst, State.stopActive, if_neg (hidle.not.2 hi)]
      rfl
    · rw [hexec, stopRing_ok (s := taken) hr hst]
      rfl
    · rw [hexec, stopRing_refused (s := taken) hr hst]
      rfl

end Sys2Proof.Machine
end

section
/-! PROOFS. RESET RING (R88, R97, R98, R119, R127): the ring, the abort claim on its ARMED entries, and the abort of its
context's request. -/

namespace Sys2Proof.Machine

-- One proof at a time: each further thread of the compile takes 1 GB of the check's fixed memory.
set_option Elab.async false

/-! ### The abort of a context (Table 5-3) -/

/-- What a ring reset ends in context `x`: the request, with its count and its CHANGED flag (R98, R127). -/
def RingContext.abort (x : RingContext) : Option (Request × Nat × Bool) :=
  match x.work with
  | .empty | .reporting _ => none
  | .waitFence q | .waitEntry q _ _ | .loading q _ => some (q, 0, false)
  | .running q => some (q, x.abortCount q)

theorem RingContext.abort_eq_none_iff (x : RingContext) :
    x.abort = none ↔ x.work = .empty ∨ ∃ o, x.work = .reporting o := by
  unfold RingContext.abort
  cases x.work <;> simp

/-- Only a bulk transfer has progress to report (R98, R127). -/
theorem abortCount_of_not_bulk (x : RingContext) {q : Request}
    (h : ∀ f n a, q.body ≠ .bulkRead f n a ∧ q.body ≠ .bulkWrite f n a) : x.abortCount q = (0, false) := by
  unfold RingContext.abortCount
  split
  · next f n a hbody => exact absurd hbody (h f n a).1
  · next f n a hbody => exact absurd hbody (h f n a).2
  · rfl

/-- The report of a request that a ring reset ends at time `t` (R98). -/
def Request.abortReport (q : Request) (n : Nat) (changed : Bool) (t : BitVec 32) : Report :=
  ⟨.aborted, q.header.kind, q.header.tag, ⟨changed, false, false⟩, none, n, t⟩

/-- The context once its request has been aborted (R98, R119). -/
def RingContext.aborted (x : RingContext) (q : Request) (n : Nat) (changed : Bool) (t : BitVec 32) : RingContext :=
  { x with work := .reporting (q.abortReport n changed t), progress := if q.isBulk then 0 else x.progress }

theorem abortContext_none (s : State) {r : RingId} (h : (s.ctx r).abort = none) : s.abortContext r = s := by
  obtain hw | ⟨o, hw⟩ := (RingContext.abort_eq_none_iff _).1 h <;> simp only [State.abortContext, hw]

theorem abortRequest_eq (s : State) (r : RingId) (q : Request) (n : Nat) (changed : Bool) :
    s.abortRequest r q n changed = (s.setCtx r ((s.ctx r).aborted q n changed s.now32)).joinList
      (s.ring r).config.cring (.ring r) := by
  unfold State.abortRequest RingContext.aborted
  split
  · refine (State.finish_reported _ r _ (q.abortReport n changed s.now32) (.inr nofun)).trans ?_
    simp only [State.setWork, State.ctx_setCtx_self, State.setCtx_setCtx]
    rfl
  · exact s.finish_reported r _ (q.abortReport n changed s.now32) (.inr nofun)

theorem abortContext_some (s : State) {r : RingId} {q : Request} {n : Nat} {changed : Bool}
    (h : (s.ctx r).abort = some (q, n, changed)) :
    s.abortContext r = (s.setCtx r ((s.ctx r).aborted q n changed s.now32)).joinList
      (s.ring r).config.cring (.ring r) := by
  rw [← abortRequest_eq]
  unfold RingContext.abort at h
  split at h
  · cases h
  · cases h
  · next hw => cases h; simp only [State.abortContext, hw]
  · next hw => cases h; simp only [State.abortContext, hw]
  · next hw => cases h; simp only [State.abortContext, hw]
  · next hw =>
    obtain ⟨rfl, hcount⟩ := Prod.mk.inj (Option.some.inj h)
    simp only [State.abortContext, hw, hcount]

theorem abortContext_frame (s : State) (r : RingId) :
    ∃ c y, s.abortContext r = { s with crings := c, contexts := y } := by
  cases h : (s.ctx r).abort with
  | none => exact ⟨_, _, abortContext_none s h⟩
  | some a => exact ⟨_, _, abortContext_some s h⟩

/-- An abort leaves alone whatever is not the aborted request's work and progress. -/
theorem ctx_abortContext_frame (s : State) (r : RingId) :
    ∃ w p, (s.abortContext r).ctx r = { s.ctx r with work := w, progress := p } := by
  cases h : (s.ctx r).abort with
  | none => exact ⟨_, _, by rw [abortContext_none s h]⟩
  | some a => exact ⟨_, _, by rw [abortContext_some s h, State.joinList_ctx, State.ctx_setCtx_self]; rfl⟩

theorem ctx_abortContext_some (s : State) {r : RingId} {q : Request} {n : Nat} {changed : Bool}
    (h : (s.ctx r).abort = some (q, n, changed)) :
    (s.abortContext r).ctx r = (s.ctx r).aborted q n changed s.now32 := by
  rw [abortContext_some s h, State.joinList_ctx, State.ctx_setCtx_self]

theorem ctx_abortContext_ne (s : State) {r i : RingId} (hi : i ≠ r) : (s.abortContext r).ctx i = s.ctx i := by
  cases h : (s.ctx r).abort with
  | none => rw [abortContext_none s h]
  | some a => rw [abortContext_some s h, State.joinList_ctx, State.ctx_setCtx_ne s _ hi.symm]

/-- An aborted request joins the outcome list of its ring (R98, R135). -/
theorem list_abortContext (s : State) (r : RingId) :
    ((s.abortContext r).cring (s.ring r).config.cring).list = (s.cring (s.ring r).config.cring).list ++
      if (s.ctx r).abort.isSome then [.ring r] else [] := by
  cases h : (s.ctx r).abort with
  | none => rw [abortContext_none s h]; exact (List.append_nil _).symm
  | some a => rw [abortContext_some s h, State.cring_joinList, if_pos rfl]; rfl

/-! ### The reset of a ring that may be reset (R88, R97) -/

/-- An entry that a reset of ring `r` ends while it is ARMED: of that ring, and taken under generation `g` (R88). -/
def HoldEntry.abortedBy (r : RingId) (g : BitVec 8) (x : HoldEntry) : Bool := x.origin = r && x.generation = g

section
variable (s : State) (r : RingId)

/-- The state of a reset of ring `r` between its abort claim and the abort of its context. -/
def State.resetClaimed : State := (s.resetIndices r).claimAll .aborted (s.abortMatches r)

theorem abortMatches_eq :
    s.abortMatches r = (s.resetIndices r).armedEntries (HoldEntry.abortedBy r (s.ring r).generation) := rfl

theorem mem_abortMatches (e : EntryId) :
    e ∈ s.abortMatches r ↔ s.armedWith (HoldEntry.abortedBy r (s.ring r).generation) e = true := by
  rw [abortMatches_eq, mem_armedEntries]
  rfl

theorem holdLaw_resetIndices (h : s.HoldLaw) : (s.resetIndices r).HoldLaw :=
  ((sameHolds_setRing s r _).trans (sameHolds_setCtx _ r _)).holdLaw h

theorem ring_resetClaimed (i : RingId) : (s.resetClaimed r).ring i = (s.resetIndices r).ring i := ring_claimAll _ _ _ i

theorem ctx_resetClaimed (i : RingId) : (s.resetClaimed r).ctx i = (s.resetIndices r).ctx i := ctx_claimAll _ _ _ i

theorem ctx_resetClaimed_self : (s.resetClaimed r).ctx r = { s.ctx r with event := none } :=
  (ctx_resetClaimed s r r).trans (State.ctx_setCtx_self ..)

theorem ctx_resetClaimed_ne {i : RingId} (hi : i ≠ r) : (s.resetClaimed r).ctx i = s.ctx i :=
  (ctx_resetClaimed s r i).trans (State.ctx_setCtx_ne _ _ hi.symm)

theorem abort_resetClaimed : ((s.resetClaimed r).ctx r).abort = (s.ctx r).abort := by
  rw [ctx_resetClaimed_self]
  rfl

theorem now32_resetClaimed : (s.resetClaimed r).now32 = s.now32 := by
  obtain ⟨_, _, _, _, _, _, h⟩ := (s.resetIndices r).claimAll_frame .aborted (s.abortMatches r)
  rw [State.resetClaimed, h]
  rfl

theorem resetTaken_claimed : ∃ c y, s.resetTaken r = { s.resetClaimed r with crings := c, contexts := y } :=
  abortContext_frame (s.resetClaimed r) r

/-- A reset touches the rings, their contexts, the table with its lists, and the outcome lists alone (R97). -/
theorem resetTaken_frame : ∃ g t w k x l c y, s.resetTaken r = { s with
    rings := g, table := t, watch := w, wakeQueue := k, scan := x, deadlines := l, crings := c, contexts := y } := by
  obtain ⟨_, _, habort⟩ := resetTaken_claimed s r
  obtain ⟨_, _, _, _, _, _, hclaim⟩ := (s.resetIndices r).claimAll_frame .aborted (s.abortMatches r)
  exact ⟨_, _, _, _, _, _, _, _, by rw [habort, State.resetClaimed, hclaim]; rfl⟩

theorem endAdmin_resetTaken (x : Slot) : (s.resetTaken r).endAdmin x .ok = { s.resetTaken r with
    adminCtx := .reporting ⟨.ok, slotByte x 0, slotHalf x 4, ⟨false, false, false⟩, none, 0, s.now32⟩
    adminArea := { s.adminArea with list := s.adminArea.list ++ [.admin] } } := by
  obtain ⟨_, _, _, _, _, _, _, _, h⟩ := resetTaken_frame s r
  refine endAdmin_eq ?_ ?_ x .ok 0
  · rw [h]; rfl
  · rw [h]

theorem ring_resetTaken (i : RingId) : (s.resetTaken r).ring i = (s.resetIndices r).ring i := by
  obtain ⟨_, _, h⟩ := resetTaken_claimed s r
  rw [h]
  exact ring_resetClaimed s r i

theorem ring_resetTaken_self : (s.resetTaken r).ring r =
    ⟨.ready, (s.ring r).config, 0, 0, 0, (s.ring r).generation + 1, []⟩ :=
  (ring_resetTaken s r r).trans (State.ring_setRing_self ..)

theorem ring_resetTaken_ne {i : RingId} (hi : i ≠ r) : (s.resetTaken r).ring i = s.ring i :=
  (ring_resetTaken s r i).trans (State.ring_setRing_ne _ _ hi.symm)

theorem ctx_resetTaken_ne {i : RingId} (hi : i ≠ r) : (s.resetTaken r).ctx i = s.ctx i :=
  (ctx_abortContext_ne _ hi).trans (ctx_resetClaimed_ne s r hi)

theorem ctx_resetTaken_self_frame :
    ∃ w p, (s.resetTaken r).ctx r = { s.ctx r with event := none, work := w, progress := p } := by
  obtain ⟨w, p, h⟩ := ctx_abortContext_frame (s.resetClaimed r) r
  exact ⟨w, p, h.trans (by rw [ctx_resetClaimed_self])⟩

theorem ctx_resetTaken_of_abort {q : Request} {n : Nat} {changed : Bool}
    (h : (s.ctx r).abort = some (q, n, changed)) :
    (s.resetTaken r).ctx r = { (s.ctx r).aborted q n changed s.now32 with event := none } := by
  rw [State.resetTaken, ← State.resetClaimed, ctx_abortContext_some _ ((abort_resetClaimed s r).trans h),
    ctx_resetClaimed_self, now32_resetClaimed]
  rfl

theorem ctx_resetTaken_of_none (h : (s.ctx r).abort = none) :
    (s.resetTaken r).ctx r = { s.ctx r with event := none } := by
  rw [State.resetTaken, ← State.resetClaimed, abortContext_none _ ((abort_resetClaimed s r).trans h),
    ctx_resetClaimed_self]

theorem endedTogether_resetTaken (h : s.HoldLaw) : EndedTogether s (s.resetTaken r) .aborted
    (s.armedWith (HoldEntry.abortedBy r (s.ring r).generation)) := by
  obtain ⟨_, _, hframe⟩ := resetTaken_claimed s r
  obtain ⟨hentry, hwatch, hdeadlines⟩ := endedTogether_claimArmed (holdLaw_resetIndices s r h) .aborted
    (HoldEntry.abortedBy r (s.ring r).generation)
  rw [hframe]
  exact ⟨hentry, hwatch, hdeadlines⟩

/-- Where the ring's entries report to the ring's own completion ring, the aborted entries join its list in ascending
entry number, and the aborted request joins behind them (R98, R135). -/
theorem list_resetTaken (h : s.HoldLaw)
    (hmapped : ∀ e z, s.entry e = some z → z.origin = r → z.cring = (s.ring r).config.cring) :
    ((s.resetTaken r).cring (s.ring r).config.cring).list = (s.cring (s.ring r).config.cring).list ++
      (s.abortMatches r).map Source.entry ++ if (s.ctx r).abort.isSome then [.ring r] else [] := by
  have hcring : ((s.resetClaimed r).ring r).config.cring = (s.ring r).config.cring := by
    rw [ring_resetClaimed, State.resetIndices]
    simp
  have hall : (s.abortMatches r).filter (fun e => (s.entry e).any (fun z => z.cring = (s.ring r).config.cring)) =
      s.abortMatches r := by
    refine List.filter_eq_self.2 fun e hmem => ?_
    obtain ⟨z, hz, -, hmatch⟩ := (armedWith_iff ..).1 ((mem_abortMatches s r e).1 hmem)
    simp only [HoldEntry.abortedBy, Bool.and_eq_true, decide_eq_true_eq] at hmatch
    obtain ⟨horigin, -⟩ := hmatch
    rw [hz, Option.any_some, decide_eq_true_eq]
    exact hmapped e z hz horigin
  have hclaim := cring_claimArmed (holdLaw_resetIndices s r h) .aborted
    (HoldEntry.abortedBy r (s.ring r).generation) (s.ring r).config.cring
  have hlist := list_abortContext (s.resetClaimed r) r
  rw [hcring, abort_resetClaimed] at hlist
  refine hlist.trans ?_
  rw [State.resetClaimed, abortMatches_eq, hclaim, ← abortMatches_eq]
  exact congrArg (fun l => _ ++ l.map Source.entry ++ _) hall

end

/-! ### The request, branch by branch -/

section
variable {s : State} {x : Slot} {r : RingId}

theorem resetRing_refused (hr : ringNumber (slotByte x 8) = some r)
    (h : (s.ring r).state = .unconfigured ∨ s.barred r = true) : s.resetRing x = s.endAdmin x .ringState := by
  simp only [State.resetRing, hr, Bool.or_eq_true, decide_eq_true_eq, if_pos h]

theorem resetRing_taken (hr : ringNumber (slotByte x 8) = some r) (hst : (s.ring r).state ≠ .unconfigured)
    (hbar : ¬ s.barred r = true) : s.resetRing x = (s.resetTaken r).endAdmin x .ok := by
  simp only [State.resetRing, hr, Bool.or_eq_true, decide_eq_true_eq, if_neg (not_or.2 ⟨hst, hbar⟩)]

theorem exec_resetRing {rest : List (Option Slot)} (hd : s.device = .running) (ha : s.adminCtx = .empty)
    (hb : s.admin.buffer = some x :: rest) (hk : (slotByte x 0).toNat = 0x46) :
    exec .resetRing s = .next (s.consumeAdmin.resetRing x) :=
  congrArg _ (takeAdmin_oldest hd ha hb (by simp [adminKind, slotKind, hk]) _)

end

/-! ### The obligation -/

/-- Settles O42: the refusals in their order, or the ring, the abort claim and the abort of the context's request. -/
theorem resetRingAbortsWhatTheRingHolds : Obligations.ResetRingAbortsWhatTheRingHolds := by
  intro s x rest hd ha hb hk taken ends
  have htaken : s.consumeAdmin = taken := consumeAdmin_oldest hb
  have hexec : exec .resetRing s = .next (taken.resetRing x) := htaken ▸ exec_resetRing hd ha hb hk
  refine ⟨fun hout => ?_, fun r hring => ?_⟩
  · rw [hexec, State.resetRing, ringNumber_eq_none hout]
    rfl
  intro y now barred hit es aborted s1 s2
  have hr : ringNumber (slotByte x 8) = some r := (ringNumber_eq_some_iff _ r).2 hring
  have hbarred : taken.barred r = true ↔ barred := barred_iff taken r
  refine ⟨fun hno => ?_, fun hst hbar hs => ?_⟩
  · rw [hexec, resetRing_refused (s := taken) hr (hno.imp_right hbarred.2)]
    rfl
  have hlaw : taken.HoldLaw := htaken ▸ holdLaw_consumeAdmin hs
  have hhit : taken.armedWith (HoldEntry.abortedBy r (taken.ring r).generation) = hit := by
    funext e
    simp only [armedWith_eq_any, HoldEntry.abortedBy, ← Bool.and_assoc]
    rfl
  have hes : taken.abortMatches r = es := by
    rw [abortMatches_eq]
    exact congrArg (List.finRange 256).filter hhit
  have hs2 : taken.resetClaimed r = s2 := by rw [State.resetClaimed, hes]; rfl
  obtain ⟨_, _, hclaimed⟩ := resetTaken_claimed taken r
  obtain ⟨_, _, _, _, _, _, _, _, hframe⟩ := resetTaken_frame taken r
  obtain ⟨hentry, hwatch, hdeadlines⟩ := endedTogether_resetTaken taken r hlaw
  rw [hhit] at hentry hwatch hdeadlines
  obtain ⟨_, _, hctx⟩ := ctx_resetTaken_self_frame taken r
  have hended (q : Request) (n : Nat) (changed : Bool) (h : (s.ctx r).abort = some (q, n, changed)) :
      ((taken.resetTaken r).ctx r).work = aborted q n changed ∧
        (q.isBulk = true → ((taken.resetTaken r).ctx r).progress = 0) := by
    rw [ctx_resetTaken_of_abort taken r h]
    exact ⟨rfl, fun hq => if_pos hq⟩
  refine ⟨(taken.resetTaken r).endAdmin x .ok, by rw [hexec, resetRing_taken (s := taken) hr hst (hbarred.not.2 hbar)],
    ?_⟩
  rw [endAdmin_resetTaken]
  refine ⟨?_, ?_, ring_resetTaken_self taken r, fun i hi => ring_resetTaken_ne taken r hi, hentry, hwatch, hdeadlines,
    ?_, fun a => ?_, fun i hi => ctx_resetTaken_ne taken r hi, fun q d b hw => ?_, fun q hw => ?_, fun hw => ?_, ?_,
    rfl, rfl, ?_⟩
  · rw [← hs2, hclaimed]
  · rw [← hs2, hclaimed]
  · exact congrArg RingContext.event hctx
  · exact congrArg (fun z => readByte z.staging a) hctx
  · refine (hended q 0 false ?_).1
    rcases hw with hw | hw | hw <;> simp only [RingContext.abort, hw]
  · have habort : (s.ctx r).abort = some (q, (s.ctx r).abortCount q) := by simp only [RingContext.abort, hw]
    refine ⟨fun f n h hbody => ?_, fun f n h hbody => ?_, fun hbody => ?_⟩
    · obtain ⟨hwork, hprogress⟩ := hended q (s.ctx r).progress false
        (habort.trans (by rw [RingContext.abortCount, hbody]))
      exact ⟨hwork, hprogress (by rw [Request.isBulk, hbody])⟩
    · obtain ⟨hwork, hprogress⟩ := hended q (s.ctx r).progress (s.ctx r).changedMark
        (habort.trans (by rw [RingContext.abortCount, hbody]))
      exact ⟨hwork, hprogress (by rw [Request.isBulk, hbody])⟩
    · exact (hended q 0 false (habort.trans (by rw [abortCount_of_not_bulk _ hbody]))).1
  · exact (congrArg RingContext.work
      (ctx_resetTaken_of_none taken r ((RingContext.abort_eq_none_iff _).2 hw)) :)
  · intro busy hmapped
    have hbusy : busy ↔ (taken.ctx r).abort.isSome = true := by
      rw [Option.isSome_iff_ne_none, Ne, RingContext.abort_eq_none_iff]
      push Not
      rfl
    have hlist := list_resetTaken taken r hlaw hmapped
    rw [hes] at hlist
    refine ⟨fun hyes => hlist.trans ?_, fun hno => hlist.trans ?_⟩
    · rw [if_pos (hbusy.1 hyes)]
      rfl
    · rw [if_neg (hbusy.not.1 hno)]
      exact List.append_nil _
  · rw [hframe]

end Sys2Proof.Machine
end

section
/-! PROOFS. The admin requests that touch no ring: NOP, an unknown kind, CLEAR CELLS as it is taken, and READ STATUS
(R129, R153 to R155, R159, R160). -/

namespace Sys2Proof.Machine

-- One proof at a time: each further thread of the compile takes 1 GB of the check's fixed memory.
set_option Elab.async false

/-! ### The kinds of admin records (Table 11-6) -/

/-- The number of an admin kind (Table 11-6). -/
def AdminKind.code : AdminKind → Nat
  | .nop => 0x41
  | .configureRequestRing => 0x42
  | .configureCompletionRing => 0x43
  | .startRing => 0x44
  | .stopRing => 0x45
  | .resetRing => 0x46
  | .resetCompletionRing => 0x47
  | .cancelHolds => 0x48
  | .clearCells => 0x49
  | .readStatus => 0x4A

theorem adminKind_code {b : Byte} {k : AdminKind} (h : adminKind b = some k) : b.toNat = k.code := by
  unfold adminKind at h
  split at h <;> cases h
  all_goals assumption

theorem adminKind_eq_none_iff (b : Byte) : adminKind b = none ↔ b.toNat < 0x41 ∨ 0x4A < b.toNat := by
  unfold adminKind
  split <;> simp_all
  omega

/-- Each command that takes a known kind of admin record (R153). -/
theorem exec_admin_takes_kind {c : Instr} {n : Nat} (s : State)
    (hc : (c, n) ∈ [(Instr.adminNop, 0x41), (.configureRequestRing, 0x42), (.configureCompletionRing, 0x43),
      (.startRing, 0x44), (.stopRing, 0x45), (.resetRing, 0x46), (.resetCompletionRing, 0x47), (.cancelHolds, 0x48),
      (.clearCells, 0x49), (.readStatus, 0x4A)]) :
    ∃ k f, AdminKind.code k = n ∧ exec c s = .next (s.takeAdmin (some k) f) := by
  simp only [List.mem_cons, List.not_mem_nil, or_false, Prod.mk.injEq] at hc
  obtain ⟨rfl, rfl⟩ | ⟨rfl, rfl⟩ | ⟨rfl, rfl⟩ | ⟨rfl, rfl⟩ | ⟨rfl, rfl⟩ | ⟨rfl, rfl⟩ | ⟨rfl, rfl⟩ | ⟨rfl, rfl⟩ |
    ⟨rfl, rfl⟩ | ⟨rfl, rfl⟩ := hc
  · exact ⟨.nop, _, rfl, rfl⟩
  · exact ⟨.configureRequestRing, _, rfl, rfl⟩
  · exact ⟨.configureCompletionRing, _, rfl, rfl⟩
  · exact ⟨.startRing, _, rfl, rfl⟩
  · exact ⟨.stopRing, _, rfl, rfl⟩
  · exact ⟨.resetRing, _, rfl, rfl⟩
  · exact ⟨.resetCompletionRing, _, rfl, rfl⟩
  · exact ⟨.cancelHolds, _, rfl, rfl⟩
  · exact ⟨.clearCells, _, rfl, rfl⟩
  · exact ⟨.readStatus, _, rfl, rfl⟩

/-- No admin record is taken as one of another kind (R153, log entry 2). -/
theorem takeAdmin_other {s : State} {x : Slot} {rest : List (Option Slot)} (hb : s.admin.buffer = some x :: rest)
    {k : Option AdminKind} (hk : adminKind (slotKind x) ≠ k) (f : State → Slot → State) : s.takeAdmin k f = s := by
  have hold (y : Slot) (hy : s.oldestAdmin = some y) : y = x := by
    unfold State.oldestAdmin at hy
    rw [hb] at hy
    split at hy <;> cases hy
    rfl
  unfold State.takeAdmin
  split
  · next y hy => rw [hold y hy, if_neg hk]
  · rfl

section
variable {s : State} {x : Slot} {rest : List (Option Slot)} (hd : s.device = .running) (ha : s.adminCtx = .empty)
  (hb : s.admin.buffer = some x :: rest)
include hd ha hb

theorem exec_adminNop (hk : (slotByte x 0).toNat = 0x41) : exec .adminNop s = .next (s.consumeAdmin.endAdmin x .ok) :=
  congrArg _ (takeAdmin_oldest hd ha hb (by simp [adminKind, slotKind, hk]) _)

theorem exec_adminUnknownKind (hk : (slotByte x 0).toNat < 0x41 ∨ 0x4A < (slotByte x 0).toNat) :
    exec .adminUnknownKind s = .next (s.consumeAdmin.endAdmin x .badRequest) :=
  congrArg _ (takeAdmin_oldest hd ha hb ((adminKind_eq_none_iff _).2 hk) _)

theorem exec_clearCells (hk : (slotByte x 0).toNat = 0x49) :
    exec .clearCells s = .next (s.consumeAdmin.clearCellsRequest x) :=
  congrArg _ (takeAdmin_oldest hd ha hb (by simp [adminKind, slotKind, hk]) _)

theorem exec_readStatus (hk : (slotByte x 0).toNat = 0x4A) :
    exec .readStatus s = .next (s.consumeAdmin.readStatusRequest x) :=
  congrArg _ (takeAdmin_oldest hd ha hb (by simp [adminKind, slotKind, hk]) _)

end

/-! ### CLEAR CELLS as it is taken (R129, R159) -/

section
variable {s : State} {x : Slot}

theorem clearCellsRequest_badConfig (h : (slotHalf x 8).toNat = 0 ∨ 4096 < (slotHalf x 8).toNat ∨
    4096 < (slotHalf x 6).toNat + (slotHalf x 8).toNat) : s.clearCellsRequest x = s.endAdmin x .badConfig :=
  if_pos (by simpa [Nat.lt_one_iff, or_assoc] using h)

theorem clearCellsRequest_starts (hn : 1 ≤ (slotHalf x 8).toNat)
    (hfn : (slotHalf x 6).toNat + (slotHalf x 8).toNat ≤ 4096) : s.clearCellsRequest x =
      { s with adminCtx :=
          .running (slotByte x 0) (slotHalf x 4) (slotHalf x 6).toNat (slotHalf x 8).toNat 0 false } :=
  if_neg (by
    simp only [Bool.or_eq_true, decide_eq_true_eq]
    omega)

end

/-! ### The values of READ STATUS (Tables 8-2 and 11-5) -/

/-- There are 256 entries (R46). -/
theorem totalOccupancy_le (s : State) : s.totalOccupancy ≤ 256 :=
  (List.length_filter_le ..).trans_eq (List.length_finRange ..)

/-- The device value, seen as the chain of its fields with the width of each. -/
theorem extractLsb'_deviceStatus (s : State) (i n : Nat) : s.deviceStatus.extractLsb' i n =
    ((0 : BitVec 32) ++ s.timeBase.setWidth 32 ++ BitVec.ofNat 16 s.deadlines.length ++
      BitVec.ofNat 16 s.wakeQueue.length ++ BitVec.ofNat 16 s.totalOccupancy ++ (0 : Byte) ++
      s.device.code).extractLsb' i n := rfl

theorem deviceStatus_fields (s : State) :
    s.deviceStatus.extractLsb' 0 8 = s.device.code ∧
    (s.deviceStatus.extractLsb' 16 16).toNat = s.totalOccupancy ∧
    (s.deviceStatus.extractLsb' 32 16).toNat = s.wakeQueue.length % 65536 ∧
    (s.deviceStatus.extractLsb' 48 16).toNat = s.deadlines.length % 65536 ∧
    s.deviceStatus.extractLsb' 64 32 = s.timeBase.setWidth 32 ∧
    s.deviceStatus.extractLsb' 8 8 = 0 ∧ s.deviceStatus.extractLsb' 96 32 = 0 := by
  have hocc := Nat.lt_of_le_of_lt (totalOccupancy_le s) (show 256 < 65536 by decide)
  simp (disch := omega) only [extractLsb'_deviceStatus, BitVec.extractLsb'_append_eq_of_le,
    BitVec.extractLsb'_append_eq_of_add_le]
  simp [Nat.mod_eq_of_lt hocc]

theorem extractLsb'_ringStatus (s : State) (r : RingId) (i n : Nat) : (s.ringStatus r).extractLsb' i n =
    ((0 : BitVec 48) ++ BitVec.ofNat 16 (s.occ r) ++ BitVec.ofNat 16 (s.ring r).consumer ++
      BitVec.ofNat 16 (s.ring r).producer ++ (0 : Byte) ++ (s.ring r).generation ++ (s.ctx r).work.code ++
      (s.ring r).state.code).extractLsb' i n := rfl

theorem ringStatus_fields (s : State) (r : RingId) :
    (s.ringStatus r).extractLsb' 0 8 = (s.ring r).state.code ∧
    (s.ringStatus r).extractLsb' 8 8 = (s.ctx r).work.code ∧
    (s.ringStatus r).extractLsb' 16 8 = (s.ring r).generation ∧
    ((s.ringStatus r).extractLsb' 32 16).toNat = (s.ring r).producer % 65536 ∧
    ((s.ringStatus r).extractLsb' 48 16).toNat = (s.ring r).consumer % 65536 ∧
    ((s.ringStatus r).extractLsb' 64 16).toNat = s.occ r % 65536 ∧
    (s.ringStatus r).extractLsb' 24 8 = 0 ∧ (s.ringStatus r).extractLsb' 80 48 = 0 := by
  simp (disch := omega) only [extractLsb'_ringStatus, BitVec.extractLsb'_append_eq_of_le,
    BitVec.extractLsb'_append_eq_of_add_le]
  simp

theorem extractLsb'_cringStatus (s : State) (c : CRingId) (i n : Nat) : (s.cringStatus c).extractLsb' i n =
    ((0 : BitVec 48) ++ BitVec.ofNat 16 (s.cring c).list.length ++ BitVec.ofNat 16 (s.cring c).consumer ++
      BitVec.ofNat 16 (s.cring c).producer ++ (0 : BitVec 16) ++ BitVec.ofNat 8 (s.cring c).unsignalled ++
      bitByte (s.cring c).active).extractLsb' i n := rfl

theorem cringStatus_fields (s : State) (c : CRingId) :
    (s.cringStatus c).extractLsb' 0 8 = bitByte (s.cring c).active ∧
    ((s.cringStatus c).extractLsb' 8 8).toNat = (s.cring c).unsignalled % 256 ∧
    ((s.cringStatus c).extractLsb' 32 16).toNat = (s.cring c).producer % 65536 ∧
    ((s.cringStatus c).extractLsb' 48 16).toNat = (s.cring c).consumer % 65536 ∧
    ((s.cringStatus c).extractLsb' 64 16).toNat = (s.cring c).list.length % 65536 ∧
    (s.cringStatus c).extractLsb' 16 16 = 0 ∧ (s.cringStatus c).extractLsb' 80 48 = 0 := by
  simp (disch := omega) only [extractLsb'_cringStatus, BitVec.extractLsb'_append_eq_of_le,
    BitVec.extractLsb'_append_eq_of_add_le]
  simp

theorem getElem?_ringStates (y : RingState) :
    ([RingState.unconfigured, .ready, .active, .draining, .stopped, .faulted])[y.code.toNat]? = some y := by
  cases y <;> rfl

theorem toNat_code_work (w : Work) : w.code.toNat = match w with
    | .empty => 0 | .waitFence _ => 1 | .waitEntry _ _ _ => 2 | .running _ => 3 | .loading _ _ => 4
    | .reporting _ => 5 := by
  cases w <;> rfl

theorem toNat_bitByte (b : Bool) : (bitByte b).toNat = if b then 1 else 0 := by cases b <;> rfl

/-! ### The value that a selector names (Table 11-3) -/

theorem byte_ne_zero {b : Byte} (h : b.toNat ≠ 0) : b ≠ 0 := by
  rintro rfl
  exact h rfl

section
variable (s : State) {b : Byte}

theorem statusValueOf_device (h : b.toNat = 0) : s.statusValueOf b = some s.deviceStatus :=
  if_pos (BitVec.eq_of_toNat_eq h)

theorem statusValueOf_ring {r : RingId} (h : b.toNat = 0x10 + r.val) : s.statusValueOf b = some (s.ringStatus r) := by
  have hr : (⟨b.toNat - 0x10, by omega⟩ : RingId) = r := Fin.ext (by simp [h])
  rw [State.statusValueOf, if_neg (byte_ne_zero (by omega)), dif_pos (by omega), hr]

theorem statusValueOf_cring {c : CRingId} (h : b.toNat = 0x20 + c.val) :
    s.statusValueOf b = some (s.cringStatus c) := by
  have hc : (⟨b.toNat - 0x20, by omega⟩ : CRingId) = c := Fin.ext (by simp [h])
  rw [State.statusValueOf, if_neg (byte_ne_zero (by omega)), dif_neg (by omega), dif_pos (by omega), hc]

theorem statusValueOf_none (h0 : b.toNat ≠ 0)
    (h : b.toNat < 0x10 ∨ (0x18 ≤ b.toNat ∧ b.toNat < 0x20) ∨ 0x24 ≤ b.toNat) : s.statusValueOf b = none := by
  rw [State.statusValueOf, if_neg (byte_ne_zero h0), dif_neg (by omega), dif_neg (by omega)]

theorem readStatusRequest_some {x : Slot} {v : CellValue} (h : s.statusValueOf (slotByte x 8) = some v) :
    s.readStatusRequest x = s.endAdmin x .ok 0 (some v) := by
  rw [State.readStatusRequest, h]

theorem readStatusRequest_none {x : Slot} (h : s.statusValueOf (slotByte x 8) = none) :
    s.readStatusRequest x = s.endAdmin x .badRequest := by
  rw [State.readStatusRequest, h]

end

/-- Settles O39: the record is taken by the command of its kind alone, and ends by its fields. -/
theorem adminMarkersStatusAndClears : Obligations.AdminMarkersStatusAndClears := by
  intro s x rest hd ha hb kind taken ends sel f n
  have htaken : s.consumeAdmin = taken := consumeAdmin_oldest hb
  have hends (st : Status) (v : Option CellValue) : s.consumeAdmin.endAdmin x st 0 v = ends st v := by
    rw [htaken]; rfl
  have hread (hk : kind = 0x4A) {v : CellValue} (hv : s.consumeAdmin.statusValueOf (slotByte x 8) = some v) :
      exec .readStatus s = .next (ends .ok (some v)) := by
    rw [exec_readStatus hd ha hb hk, readStatusRequest_some _ hv, hends]
  refine ⟨fun hk => ?_, fun hk => ?_, fun hk hbad => ?_, fun hk hn hfn => ?_, fun hk hsel => ?_, fun hk r hsel => ?_,
    fun hk c hsel => ?_, fun hk h0 hsel => ?_, fun hlo hhi => ?_, fun c k hc hne => ?_⟩
  · rw [exec_adminNop hd ha hb hk, hends]
  · rw [exec_adminUnknownKind hd ha hb hk, hends]
  · rw [exec_clearCells hd ha hb hk, clearCellsRequest_badConfig hbad, hends]
  · rw [exec_clearCells hd ha hb hk, clearCellsRequest_starts hn hfn, htaken]
  · refine ⟨_, hread hk (statusValueOf_device _ hsel), ?_⟩
    obtain ⟨hdev, hfields⟩ := deviceStatus_fields s.consumeAdmin
    exact ⟨hdev.trans (congrArg DeviceState.code hd), hfields⟩
  · refine ⟨_, hread hk (statusValueOf_ring _ hsel), ?_⟩
    obtain ⟨hstate, hwork, hfields⟩ := ringStatus_fields s.consumeAdmin r
    exact ⟨hstate ▸ getElem?_ringStates _, hwork ▸ toNat_code_work _, hfields⟩
  · refine ⟨_, hread hk (statusValueOf_cring _ hsel), ?_⟩
    obtain ⟨hactive, hfields⟩ := cringStatus_fields s.consumeAdmin c
    exact ⟨hactive ▸ toNat_bitByte _, hfields⟩
  · rw [exec_readStatus hd ha hb hk, readStatusRequest_none _ (statusValueOf_none _ h0 hsel), hends]
  · refine congrArg _ (takeAdmin_other hb (fun h => ?_) _)
    have hout := (adminKind_eq_none_iff _).1 h
    exact hout.elim (Nat.not_lt.2 hlo) (Nat.not_lt.2 hhi)
  · obtain ⟨k', f', rfl, hexec⟩ := exec_admin_takes_kind s hc
    rw [hexec, takeAdmin_other hb fun h => hne (adminKind_code h)]

end Sys2Proof.Machine
end

section
/-! PROOFS. Cells moved one at a time (R119 to R121, R125, R128, R129): a cell of a BULK READ, of a BULK WRITE and of a
CLEAR CELLS under a grant. -/

namespace Sys2Proof.Machine

-- One proof at a time: each further thread of the compile takes 1 GB of the check's fixed memory.
set_option Elab.async false

/-! ### A stored cell and its report (R15, R22) -/

/-- Between `s` and `t` cell `c` was stored with `v` and the change reported (R13, R15, R22). -/
structure CellStored (s t : State) (c : CellId) (v : CellValue) : Prop where
  mem : ∀ a, readByte t.mem a = if 16 * c.val ≤ a ∧ a < 16 * c.val + 16 then cellByte v (a - 16 * c.val)
    else readByte s.mem a
  change : s.ChangeReported t c (readCell s.mem c ≠ v)

/-- A store reports its change, whatever `u` moved that the Wake Scan does not read. -/
theorem cellStored_reportIf {s u : State} (c : CellId) (v : CellValue) (hm : Memory.wf s.mem = true)
    (hmem : u.mem = writeCell s.mem c v) (hwatch : u.watch = s.watch) (hqueue : u.wakeQueue = s.wakeQueue)
    (hscan : u.scan = s.scan) : CellStored s (u.reportIf (decide (readCell s.mem c ≠ v)) c) c v := by
  have hreport := changeReported_reportIf u (decide (readCell s.mem c ≠ v)) c
  obtain ⟨_, _, hframe⟩ := u.reportIf_frame (decide (readCell s.mem c ≠ v)) c
  simp only [State.ChangeReported, State.watchList, hwatch, hqueue, hscan, decide_eq_true_eq] at hreport
  refine ⟨fun a => ?_, hreport⟩
  rw [hframe, ← readByte_writeCell s.mem c v hm a, ← hmem]

/-! ### The end of a bulk transfer (R111, R121, R125, R143) -/

/-- Between `s` and `t` ring `r` has ended a bulk transfer of `n` cells OK, with its context as in `x` but for the work
(R111, R143). -/
structure BulkEnded (s t : State) (r : RingId) (h : Header) (x : RingContext) (flags : Flags) (n : Nat) : Prop where
  quiet : h.quiet = true → t.ctx r = { x with work := .empty } ∧ t.crings = s.crings
  reported : h.quiet = false →
    t.ctx r = { x with work := .reporting ⟨.ok, h.kind, h.tag, flags, none, n, s.timeBase.setWidth 32⟩ } ∧
    t.cring (s.ring r).config.cring = { s.cring (s.ring r).config.cring with
      list := (s.cring (s.ring r).config.cring).list ++ [.ring r] } ∧
    ∀ i, i ≠ (s.ring r).config.cring → t.cring i = s.cring i

theorem bulkEnded_finish {s u : State} {r : RingId} {x : RingContext} (hctx : u.ctx r = x)
    (hcrings : u.crings = s.crings) (hrings : u.rings = s.rings) (htime : u.timeBase = s.timeBase) (h : Header)
    (flags : Flags) (n : Nat) :
    BulkEnded s (u.finish r h.quiet (h.report .ok flags none n u.now32)) r h x flags n := by
  have hcring (i : CRingId) : u.cring i = s.cring i := by rw [State.cring, hcrings, State.cring]
  have hring : u.ring r = s.ring r := by rw [State.ring, hrings, State.ring]
  refine ⟨fun hq => ?_, fun hq => ?_⟩
  · rw [hq, u.finish_quiet r _ rfl, ← hctx]
    exact ⟨u.ctx_setWork_self r .empty, hcrings⟩
  · rw [u.finish_reported r _ _ (.inl hq), hring, ← hctx, ← hcring, ← htime]
    refine ⟨u.ctx_setWork_self r _, ?_, fun i hi => ?_⟩
    · exact (State.cring_joinList ..).trans (if_pos rfl)
    · exact ((State.cring_joinList ..).trans (if_neg hi.symm)).trans (hcring i)

/-! ### BULK READ (R120, R121, R128) -/

theorem readCell_writeCell (m : List Host.Cell) (c d : Nat) (v : CellValue) (hm : Memory.wf m = true) :
    readCell (writeCell m c v) d = if d = c then v else readCell m d := by
  split
  · next h => subst h; exact readCell_writeCell_self m d v hm
  · next h => exact readCell_writeCell_ne m v hm (Ne.symm h)

theorem length_readCells (m : List Host.Cell) (c n : Nat) : (readCells m c n).length = n := by simp [readCells]

theorem getElem?_readCells (m : List Host.Cell) (c : Nat) {n i : Nat} (hi : i < n) :
    (readCells m c n)[i]? = some (readCell m (c + i)) := by simp [readCells, hi]

/-- The context of a BULK READ once its next cell, of value `v`, has been staged (R120). -/
def RingContext.staged (x : RingContext) (v : CellValue) : RingContext :=
  { x with staging := writeCell x.staging x.progress v, progress := x.progress + 1 }

section
variable {s g : State} {r : RingId} {h : Header} {f n : Nat} {host : HostAddr}

/-- One cell is staged, and the last one, but in RESETTING, ends the request (R120, R121, R128). -/
theorem exec_bulkReadCell (hg : s.grant (.ring r) = some g) (hw : (s.ctx r).work = .running ⟨h, .bulkRead f n host⟩)
    (hk : (s.ctx r).progress < n) (hc : f + (s.ctx r).progress < 4096) :
    exec (.bulkReadCell r) s =
      let t := g.setCtx r ((s.ctx r).staged (readCell s.mem (f + (s.ctx r).progress)))
      .next (if (s.ctx r).progress + 1 < n ∨ s.device = .resetting then t else t.endBulkRead r h n host) := by
  have hstage : g.stageCell r (f + (s.ctx r).progress) (s.ctx r).progress =
      g.setCtx r ((s.ctx r).staged (readCell s.mem (f + (s.ctx r).progress))) := by
    rw [State.stageCell, (granted hg).ctx, (granted hg).mem, RingContext.staged]
  change execBulkReadCell r s = _
  simp [execBulkReadCell, hw, hk, hg, Nat.not_le.2 hc, hstage]

/-- Between `s` and `t` ring `r`, granted in `g`, has ended a BULK READ with its context as in `x` but for the work: its
data write is handed over and its outcome decided (R121). -/
structure BulkReadEnded (s g t : State) (r : RingId) (h : Header) (x : RingContext) (n : Nat) (host : HostAddr) :
    Prop where
  handed : t.postq = s.postq ++ [.bulkData host (readCells x.staging 0 n)]
  ended : BulkEnded s t r h x ⟨false, false, false⟩ n
  others : ∀ i, i ≠ r → t.ctx i = s.ctx i
  frame : { t with postq := g.postq, contexts := g.contexts, crings := g.crings } = g

theorem bulkReadEnded_endBulkRead (hg : s.grant (.ring r) = some g) (h : Header) (x : RingContext) (n : Nat)
    (host : HostAddr) : BulkReadEnded s g ((g.setCtx r x).endBulkRead r h n host) r h x n host := by
  obtain ⟨p, q, o, rfl⟩ := s.grant_frame hg
  obtain ⟨u, hu⟩ : ∃ u, u = (State.setCtx { s with arbPointer := p, arbCredit := q, portOp := o } r x).handOver
    (.bulkData host (readCells x.staging 0 n)) := ⟨_, rfl⟩
  obtain ⟨e, he⟩ : ∃ e, e = h.report .ok .none none n u.now32 := ⟨_, rfl⟩
  have ht : (State.setCtx { s with arbPointer := p, arbCredit := q, portOp := o } r x).endBulkRead r h n host =
      u.finish r h.quiet e := by
    rw [he, hu, State.endBulkRead, State.ctx_setCtx_self]
    rfl
  have hctx : u.ctx r = x := by rw [hu]; exact State.ctx_setCtx_self ..
  have hended := bulkEnded_finish (s := s) hctx (by rw [hu]; rfl) (by rw [hu]; rfl) (by rw [hu]; rfl) h .none n
  obtain ⟨_, _, hframe⟩ := u.finish_frame r h.quiet e
  rw [ht]
  refine ⟨?_, he ▸ hended, fun i hi => (ctx_finish_ne u _ _ hi).trans ?_, ?_⟩
  · rw [hframe, hu]; rfl
  · rw [hu]; exact State.ctx_setCtx_ne _ _ hi.symm
  · rw [hframe, hu]; rfl

/-! ### BULK WRITE (R125) -/

/-- The context of a BULK WRITE once its next cell, which held `old`, has been stored (R125). -/
def RingContext.stored (x : RingContext) (old : CellValue) : RingContext :=
  { x with progress := x.progress + 1, changedMark := x.changedMark || decide (old ≠ readCell x.staging x.progress) }

/-- The state once ring `r` has written `cell`, before the change report; the last of `n` cells ends the request
(R125). -/
def State.bulkWritten (s : State) (r : RingId) (h : Header) (cell n : Nat) : State :=
  let u := State.setCtx { s with mem := writeCell s.mem cell (readCell (s.ctx r).staging (s.ctx r).progress) } r
    ((s.ctx r).stored (readCell s.mem cell))
  if (s.ctx r).progress + 1 < n then u else u.endBulkWrite r h n

/-- One staged cell is stored and its change reported (R125). -/
theorem exec_bulkWriteCell (hg : s.grant (.ring r) = some g) (hw : (s.ctx r).work = .running ⟨h, .bulkWrite f n host⟩)
    (hm : Memory.wf s.mem = true) (hk : (s.ctx r).progress < n) (hc : f + (s.ctx r).progress < 4096) :
    exec (.bulkWriteCell r) s = .next ((g.bulkWritten r h (f + (s.ctx r).progress) n).reportIf
      (decide (readCell s.mem (f + (s.ctx r).progress) ≠ readCell (s.ctx r).staging (s.ctx r).progress))
      ⟨f + (s.ctx r).progress, hc⟩) := by
  have hmem : g.mem = s.mem := (granted hg).mem
  have hctx : g.ctx r = s.ctx r := (granted hg).ctx r
  change execBulkWriteCell r s = _
  simp only [execBulkWriteCell, hw, hk, hg, hc, State.storeStaged, storeCell_eq s.mem _ _ hm, hmem, hctx,
    State.bulkWritten, RingContext.stored, if_true, dif_pos]

/-- Between `s` and `t` ring `r`, granted in `g`, has stored the next cell of a BULK WRITE, `cell` (R125). -/
structure BulkCellWritten (s g t : State) (r : RingId) (h : Header) (cell n : Nat) : Prop where
  mem : t.mem = writeCell s.mem cell (readCell (s.ctx r).staging (s.ctx r).progress)
  more : (s.ctx r).progress + 1 < n →
    t.ctx r = (s.ctx r).stored (readCell s.mem cell) ∧ t.crings = s.crings
  last : (s.ctx r).progress + 1 = n → BulkEnded s t r h ((s.ctx r).stored (readCell s.mem cell))
    ⟨((s.ctx r).stored (readCell s.mem cell)).changedMark, false, false⟩ n
  others : ∀ i, i ≠ r → t.ctx i = s.ctx i
  frame : { t with mem := g.mem, contexts := g.contexts, crings := g.crings } = g

theorem endBulkWrite_frame (s : State) (r : RingId) (h : Header) (n : Nat) :
    ∃ x y, s.endBulkWrite r h n = { s with contexts := x, crings := y } := s.finish_frame r h.quiet _

theorem bulkCellWritten_bulkWritten (hg : s.grant (.ring r) = some g) (h : Header) (cell n : Nat) :
    BulkCellWritten s g (g.bulkWritten r h cell n) r h cell n := by
  -- The written store and the context stay opaque: a unification that unfolds `writeCell` does not end in time.
  obtain ⟨m, hm⟩ : ∃ m, m = writeCell s.mem cell (readCell (s.ctx r).staging (s.ctx r).progress) := ⟨_, rfl⟩
  obtain ⟨x, hx⟩ : ∃ x, x = (s.ctx r).stored (readCell s.mem cell) := ⟨_, rfl⟩
  obtain ⟨u, hu⟩ : ∃ u, u = State.setCtx { g with mem := m } r x := ⟨_, rfl⟩
  have ht : g.bulkWritten r h cell n = if (s.ctx r).progress + 1 < n then u else u.endBulkWrite r h n := by
    rw [State.bulkWritten, (granted hg).ctx, (granted hg).mem, ← hm, ← hx, ← hu]
  have hctx : u.ctx r = x := by rw [hu, State.ctx_setCtx_self]
  obtain ⟨p, q, o, rfl⟩ := s.grant_frame hg
  have hothers {i : RingId} (hi : i ≠ r) : u.ctx i = s.ctx i := by rw [hu]; exact State.ctx_setCtx_ne _ _ hi.symm
  obtain ⟨y, z, hend⟩ := endBulkWrite_frame u r h n
  rw [ht]
  refine ⟨?_, fun hmore => ?_, fun hlast => ?_, fun i hi => ?_, ?_⟩
  · rw [← hm]
    split
    · rw [hu]; rfl
    · rw [hend, hu]; rfl
  · rw [if_pos hmore, hctx, hx]
    exact ⟨rfl, by rw [hu]; rfl⟩
  · rw [if_neg (by omega), ← hx]
    have hended := bulkEnded_finish (s := s) hctx (by rw [hu]; rfl) (by rw [hu]; rfl) (by rw [hu]; rfl) h
      ⟨x.changedMark, false, false⟩ n
    rwa [← hctx] at hended ⊢
  · split
    · exact hothers hi
    · exact (ctx_finish_ne u _ _ hi).trans (hothers hi)
  · split
    · rw [hu]; rfl
    · rw [hend, hu]; rfl

end

/-- Settles O33: the cell is staged or stored, and the last one ends the request. -/
theorem bulkCellsMoveOneAtATime : Obligations.BulkCellsMoveOneAtATime := by
  intro s g r h f n host hg hstaging hk hc u k ring ended
  refine ⟨fun hw => ?_, fun hw hm => ?_⟩
  · have hexec := exec_bulkReadCell hg hw hk hc
    obtain ⟨b, hb⟩ : ∃ b, b = writeCell u.staging k (readCell s.mem (f + k)) := ⟨_, rfl⟩
    have hstaged : u.staged (readCell s.mem (f + k)) = { u with staging := b, progress := k + 1 } := by
      rw [hb]; rfl
    rw [hstaged] at hexec
    refine ⟨b, fun j => hb ▸ readCell_writeCell _ _ _ _ hstaging,
      fun hmore => hexec.trans (congrArg _ (if_pos hmore)), fun hlast hd => ?_⟩
    have hno : ¬ (k + 1 < n ∨ s.device = .resetting) := by rw [hlast, hd]; simp
    obtain ⟨hhanded, ⟨hquiet, hreported⟩, hothers, hframe⟩ :=
      bulkReadEnded_endBulkRead hg h { u with staging := b, progress := n } n host
    have hstep : exec (.bulkReadCell r) s =
        .next ((g.setCtx r { u with staging := b, progress := k + 1 }).endBulkRead r h n host) :=
      hexec.trans (congrArg _ (if_neg hno))
    rw [hlast] at hstep
    exact ⟨_, readCells b 0 n, hstep, hhanded, length_readCells ..,
      fun i hi => by rw [getElem?_readCells _ _ hi, Nat.zero_add], ⟨hquiet, hreported⟩, hothers, hframe⟩
  · intro mark
    have hexec := exec_bulkWriteCell hg hw hm hk hc
    obtain ⟨hmem, hmore, hlast, hothers, hframe⟩ := bulkCellWritten_bulkWritten hg h (f + k) n
    obtain ⟨t, ht⟩ : ∃ t, t = g.bulkWritten r h (f + k) n := ⟨_, rfl⟩
    rw [← ht] at hmem hmore hlast hothers hframe hexec
    obtain ⟨hstored, hchange⟩ := cellStored_reportIf (s := s) (u := t) ⟨f + k, hc⟩ (readCell u.staging k) hm hmem
      ((congrArg State.watch hframe).trans (granted hg).watch)
      ((congrArg State.wakeQueue hframe).trans (granted hg).wakeQueue)
      ((congrArg State.scan hframe).trans (granted hg).scan)
    obtain ⟨_, _, hreport⟩ := t.reportIf_frame (decide (readCell s.mem (f + k) ≠ readCell u.staging k)) ⟨f + k, hc⟩
    refine ⟨_, hexec, hstored, fun h => ?_, fun h => ?_, hchange, ?_, ?_⟩
    · rw [hreport]; exact hmore h
    · obtain ⟨hquiet, hreported⟩ := hlast h
      rw [RingContext.stored, h] at hquiet hreported
      rw [hreport]
      exact ⟨hquiet, hreported⟩
    · rw [hreport]; exact hothers
    · rw [hreport]
      exact (congrArg (fun t => { t with scan := g.scan, wakeQueue := g.wakeQueue }) hframe :)

/-! ### CLEAR CELLS (R129, R159) -/

theorem cellByte_zero (k : Nat) : cellByte 0 k = 0 := by simp [cellByte]

theorem advanceClear_frame (s : State) (kind : Byte) (tag : BitVec 16) (f n k : Nat) (mark : Bool) :
    ∃ x y, s.advanceClear kind tag f n k mark = { s with adminCtx := x, adminArea := y } := by
  unfold State.advanceClear
  split
  · exact ⟨_, _, rfl⟩
  · exact ⟨_, _, rfl⟩

theorem advanceClear_more (s : State) (kind : Byte) (tag : BitVec 16) (f : Nat) {n k : Nat} (mark : Bool)
    (h : k + 1 < n) :
    s.advanceClear kind tag f n k mark = { s with adminCtx := .running kind tag f n (k + 1) mark } := if_pos h

theorem advanceClear_last (s : State) (kind : Byte) (tag : BitVec 16) (f : Nat) {n k : Nat} (mark : Bool)
    (h : k + 1 = n) : s.advanceClear kind tag f n k mark = { s with
      adminCtx := .reporting ⟨.ok, kind, tag, ⟨mark, false, false⟩, none, n, s.timeBase.setWidth 32⟩
      adminArea := { s.adminArea with list := s.adminArea.list ++ [.admin] } } := if_neg (by omega)

/-- One cell is zeroed and its change reported; the last one ends the request (R129, R159). -/
theorem exec_clearCellsCell {s g : State} {kind : Byte} {tag : BitVec 16} {f n k : Nat} {mark : Bool}
    (hg : s.grant .admin = some g) (hw : s.adminCtx = .running kind tag f n k mark) (hm : Memory.wf s.mem = true)
    (hk : k < n) (hc : f + k < 4096) :
    exec .clearCellsCell s = .next (State.reportIf
      (State.advanceClear { g with mem := writeCell s.mem (f + k) 0 } kind tag f n k
        (mark || decide (readCell s.mem (f + k) ≠ 0)))
      (decide (readCell s.mem (f + k) ≠ 0)) ⟨f + k, hc⟩) := by
  have hmem : g.mem = s.mem := (granted hg).mem
  change execClearCellsCell s = _
  simp only [execClearCellsCell, hw, hk, hg, hc, hmem, storeCell_eq s.mem _ _ hm, if_true, dif_pos]

/-- Settles O34: the cell is zeroed and reported, and the request goes on or ends. -/
theorem clearCellsZeroesOneCellAGrant : Obligations.ClearCellsZeroesOneCellAGrant := by
  intro s g kind tag f n k m hg hm hw hk hc mark
  have hexec := exec_clearCellsCell hg hw hm hk hc
  obtain ⟨p, q, o, rfl⟩ := s.grant_frame hg
  obtain ⟨v, hv⟩ : ∃ v, v = writeCell s.mem (f + k) 0 := ⟨_, rfl⟩
  rw [← hv] at hexec
  obtain ⟨t, ht⟩ : ∃ t, t = State.advanceClear { s with mem := v, arbPointer := p, arbCredit := q, portOp := o }
    kind tag f n k mark := ⟨_, rfl⟩
  obtain ⟨_, _, hframe⟩ := advanceClear_frame { s with mem := v, arbPointer := p, arbCredit := q, portOp := o }
    kind tag f n k mark
  rw [← ht] at hframe
  obtain ⟨hmem, hchange⟩ := cellStored_reportIf (s := s) (u := t) ⟨f + k, hc⟩ 0 hm (by rw [hframe, hv])
    (by rw [hframe]) (by rw [hframe]) (by rw [hframe])
  obtain ⟨_, _, hreport⟩ := t.reportIf_frame (decide (readCell s.mem (f + k) ≠ 0)) ⟨f + k, hc⟩
  refine ⟨_, ht ▸ hexec, fun a => ?_, fun hmore => ?_, fun hlast => ?_, hchange, ?_⟩
  · rw [hmem, cellByte_zero]
  · rw [hreport, ht, advanceClear_more _ _ _ _ _ hmore]
    exact ⟨rfl, rfl⟩
  · rw [hreport, ht, advanceClear_last _ _ _ _ _ hlast]
    exact ⟨rfl, rfl⟩
  · rw [hreport, hframe]

end Sys2Proof.Machine
end

section
/-! PROOFS. Consumer-index posts (R138, R178): which posts are taken, and the completion ring or the admin completion
area that each one names. -/

namespace Sys2Proof.Machine

-- One proof at a time: each further thread of the compile takes 1 GB of the check's fixed memory.
set_option Elab.async false

theorem consumerPostOk_iff (size consumer producer k : Nat) : consumerPostOk size consumer producer k = true ↔
    k < size ∧ (k + size - consumer) % size ≤ (producer + size - consumer) % size := by
  rw [consumerPostOk, Bool.and_eq_true, decide_eq_true_eq, decide_eq_true_eq]
  rfl

section
variable {s : State} {w : Word32}

/-- A post reaches the part while its memory space is enabled (R173). -/
theorem exec_consumerPost (hm : s.cfg.memorySpace = true) :
    exec (.completionConsumerPost w) s = .next (s.indexPost w) ∧
      exec (.adminCompletionConsumerPost w) s = .next (s.indexPost w) := by
  have haccess : s.access (fun s => s.indexPost w) = s.indexPost w := if_pos hm
  exact ⟨congrArg _ haccess, congrArg _ haccess⟩

/-- In RUNNING the selectors 0x10 to 0x13 name the completion rings (R178). -/
theorem indexPost_cring (hd : s.device = .running) {c : CRingId} (hsel : (w.extractLsb' 16 8).toNat = 0x10 + c.val) :
    s.indexPost w = s.postConsumer c (w.extractLsb' 0 12).toNat := by
  have hsel' : (Instr.postSelector w).toNat = 0x10 + c.val := hsel
  have hlt := c.isLt
  rw [State.indexPost, if_neg (not_not.2 hd)]
  dsimp only
  rw [dif_neg (by omega), if_neg (by omega), dif_pos ⟨by omega, by omega⟩]
  refine congrArg (s.postConsumer · _) (Fin.ext ?_)
  change (Instr.postSelector w).toNat - 0x10 = c.val
  omega

/-- In RUNNING the selector 0x18 names the admin completion area (R178). -/
theorem indexPost_adminArea (hd : s.device = .running) (hsel : (w.extractLsb' 16 8).toNat = 0x18) :
    s.indexPost w = s.postAdminConsumer (w.extractLsb' 0 12).toNat := by
  have hsel' : (Instr.postSelector w).toNat = 0x18 := hsel
  rw [State.indexPost, if_neg (not_not.2 hd)]
  dsimp only
  rw [dif_neg (by omega), if_neg (by omega), dif_neg (by omega), if_pos hsel']
  rfl

end

/-- Settles O9: the post names its list, and is taken by R138's tests on the list's indices. -/
theorem consumerPosts : Obligations.ConsumerPosts := by
  intro s w hm hd k
  obtain ⟨hring, hadmin⟩ := exec_consumerPost (s := s) (w := w) hm
  refine ⟨fun c hsel => ?_, fun hsel => ?_⟩
  · rw [hring, indexPost_cring hd hsel, State.postConsumer]
    simp only [Bool.and_eq_true, consumerPostOk_iff]
    refine ⟨fun ha hlt hle => ?_, fun hbad => ?_⟩
    · rw [if_pos ⟨ha, hlt, hle⟩]
    · rw [if_neg]
      rintro ⟨ha, hlt, hle⟩
      obtain h | h | h := hbad
      · exact Bool.false_ne_true (h.symm.trans ha)
      · exact Nat.not_lt.2 h hlt
      · exact Nat.not_lt.2 hle h
  · rw [hadmin, indexPost_adminArea hd hsel, State.postAdminConsumer]
    simp only [consumerPostOk_iff]
    refine ⟨fun hlt hle => ?_, fun hbad => ?_⟩
    · rw [if_pos ⟨hlt, hle⟩]
    · rw [if_neg]
      rintro ⟨hlt, hle⟩
      exact hbad.elim (fun h => Nat.not_lt.2 h hlt) (fun h => Nat.not_lt.2 hle h)

end Sys2Proof.Machine
end

section
/-! PROOFS. The completion rings (R131, R133, R137, R138, R145, R146, R148): the law of one ring, what each operation
on a ring does to it, and that every command keeps the law of all four. -/

namespace Sys2Proof.Machine

-- One proof at a time: each further thread of the compile takes 1 GB of the check's fixed memory.
set_option Elab.async false

/-! ### The law of one completion ring -/

/-- What `State.CRingLaw` asks of each completion ring. -/
def CompletionRing.Lawful (x : CompletionRing) : Prop := x.Blank ∨ x.Running

section
variable {x : CompletionRing}

theorem CompletionRing.Blank.active_eq (h : x.Blank) : x.active = false := congrArg CompletionRing.active h

theorem CompletionRing.Lawful.running (h : x.Lawful) (ha : x.active = true) : x.Running :=
  h.resolve_left fun hb => Bool.false_ne_true (hb.active_eq.symm.trans ha)

/-- A completion ring holds at least 16 records (R157). -/
theorem CompletionRing.Running.sixteen_le (h : x.Running) : 16 ≤ x.size := by
  have hs := h.size
  simp only [ringSizeValid, Bool.or_eq_true, decide_eq_true_eq] at hs
  omega

theorem lawful_reset : CompletionRing.reset.Lawful := .inl rfl

/-- The law does not speak of the outcome list (R133, R134). -/
theorem CompletionRing.Lawful.relist (h : x.Lawful) (l : List Source) : CompletionRing.Lawful { x with list := l } := by
  obtain hb | hr := h
  · have heq := congrArg (fun y : CompletionRing => { y with list := l }) hb
    exact .inl heq
  · exact .inr { hr with }

/-- A timer that runs goes on running at its tick, whatever its value (R145). -/
theorem CompletionRing.Lawful.tick (h : x.Lawful) : x.tick.Lawful := by
  obtain hb | hr := h
  · exact .inl (congrArg CompletionRing.tick hb)
  · exact .inr { hr with timed := Option.isSome_map.symm ▸ hr.timed }

/-- A message is sent: the count is 0 again and no timer runs (R146). -/
theorem CompletionRing.Lawful.signalled (h : x.Lawful) :
    CompletionRing.Lawful { x with unsignalled := 0, timer := none } := by
  obtain hb | hr := h
  · have heq := congrArg (fun y : CompletionRing => { y with unsignalled := 0, timer := none }) hb
    exact .inl heq
  · exact .inr { hr with count := hr.threshold.1, off := fun _ => rfl, timed := by simp }

/-- A consumer post that is taken names a place of the ring (R138). -/
theorem CompletionRing.Running.post (h : x.Running) {k : Nat} (hk : k < x.size) :
    CompletionRing.Running { x with consumer := k } := { h with consumer := hk }

/-- The producer index stays in the ring (R136 step 4). -/
theorem CompletionRing.Running.recordWritten (h : x.Running) : x.recordWritten.Running :=
  { h with producer := Nat.mod_lt _ (Nat.lt_of_lt_of_le (by decide) h.sixteen_le) }

/-- The count of a record stays below the threshold or falls to 0, and the timer starts with the first record that
waits (R145, R146, R148). -/
theorem CompletionRing.Running.countRecord (h : x.Running) : x.countRecord.1.Running := by
  unfold CompletionRing.countRecord
  split
  · next hi =>
    split
    · exact { h with count := h.threshold.1, off := fun _ => rfl, timed := by simp }
    · next hlt =>
      refine { h with count := Nat.not_le.1 hlt, off := fun hoff => ?_, timed := ?_ }
      · exact absurd hi (Bool.not_eq_true _ ▸ hoff)
      · have ht := h.timed
        by_cases hu : x.unsignalled = 0
        · by_cases hh : x.holdoff = 0
          · simpa [hu, hh] using ht
          · simp [hu, hh, Nat.pos_of_ne_zero hh]
        · simpa [hu, Nat.pos_of_ne_zero hu] using ht
  · exact h

/-- The items of a configure are those of Table 5-1, and the ring starts empty (R131, R157). -/
theorem running_of_decode {y : Slot} {l : List Source} (h : decodeCRingConfig y l = some x) : x.Running := by
  by_cases hin : CRingItemsInRange y
  · rw [decodeCRingConfig_of_inRange hin] at h
    obtain ⟨hbase, hsize, hthreshold⟩ := hin
    have hpos : 0 < (slotHalf y 12).toNat := Nat.pos_of_ne_zero fun h0 => by simp [h0] at hsize
    cases h
    exact ⟨rfl, hbase, (ringSizeValid_iff _).2 hsize, hpos, hpos, hthreshold, hthreshold.1, fun _ => rfl, by simp⟩
  · rw [decodeCRingConfig_of_not_inRange hin] at h
    cases h

end

/-! ### Operations that keep the law of every completion ring -/

/-- The completion rings of `t` keep the law that those of `s` meet. -/
def KeepsCRings (s t : State) : Prop := s.CRingLaw → t.CRingLaw

section
variable {s t u : State}

theorem KeepsCRings.after (k : KeepsCRings t u) (h : KeepsCRings s t) : KeepsCRings s u := fun hs => k (h hs)

/-- Completion rings that stay the same keep their law. -/
theorem KeepsCRings.same (h : t.crings = s.crings := by rfl) : KeepsCRings s t := fun hs c => by
  rw [State.cring, h]
  exact hs c

theorem KeepsCRings.ite {c : Prop} [Decidable c] (ht : KeepsCRings s t) (hu : KeepsCRings s u) :
    KeepsCRings s (if c then t else u) := by
  split
  · exact ht
  · exact hu

theorem keepsCRings_foldl {α : Type} (f : State → α → State) (h : ∀ s x, KeepsCRings s (f s x)) (xs : List α)
    (s : State) : KeepsCRings s (xs.foldl f s) := by
  induction xs generalizing s with
  | nil => exact .same
  | cons x xs ih => exact (ih _).after (h s x)

end

/-- One completion ring is replaced by one that meets the law. -/
theorem keepsCRings_setCRing (s : State) (c : CRingId) {x : CompletionRing} (h : (s.cring c).Lawful → x.Lawful) :
    KeepsCRings s (s.setCRing c x) := fun hs i => by
  rw [State.cring_setCRing]
  split
  · exact h (hs c)
  · exact hs i

theorem keepsCRings_joinList (s : State) (c : CRingId) (x : Source) : KeepsCRings s (s.joinList c x) :=
  keepsCRings_setCRing s c fun h => h.relist _

theorem keepsCRings_sendMessage (s : State) (v : VectorId) : KeepsCRings s (s.sendMessage v) := by
  obtain ⟨_, _, _, _, h, -⟩ := s.sendMessage_frame v
  exact .same (by rw [h])

theorem keepsCRings_releaseVector (s : State) (v : VectorId) : KeepsCRings s (s.releaseVector v) := by
  obtain ⟨_, _, _, _, h, -⟩ := s.releaseVector_frame v
  exact .same (by rw [h])

theorem keepsCRings_dropMessages (s : State) : KeepsCRings s s.dropMessages := by
  obtain ⟨_, _, _, h, -⟩ := s.dropMessages_cases
  exact .same (by rw [h])

theorem keepsCRings_setFault (s : State) (b : FaultBit) : KeepsCRings s (s.setFault b) := by
  obtain ⟨_, _, _, _, _, h, -⟩ := s.setFault_frame b
  exact .same (by rw [h])

theorem keepsCRings_grant {s g : State} {q : Requester} (h : s.grant q = some g) : KeepsCRings s g := by
  obtain ⟨_, _, _, rfl⟩ := s.grant_frame h
  exact .same

theorem keepsCRings_moveOn (s : State) (c : CellId) (n : Option EntryId) : KeepsCRings s (s.moveOn c n) := by
  obtain ⟨_, _, h⟩ := s.moveOn_frame c n
  exact .same (by rw [h])

theorem keepsCRings_reportIf (s : State) (b : Bool) (c : CellId) : KeepsCRings s (s.reportIf b c) := by
  obtain ⟨_, _, h⟩ := s.reportIf_frame b c
  exact .same (by rw [h])

theorem keepsCRings_deliver (s : State) (x : Source) : KeepsCRings s (s.deliver x) := by
  cases x with
  | entry e => exact .same (freeEntry_crings s e)
  | ring r => exact .same
  | admin => exact .same

theorem keepsCRings_discard (s : State) (x : Source) : KeepsCRings s (s.discard x) := by
  cases x with
  | entry e => exact .same (freeEntry_crings s e)
  | ring r => exact .same
  | admin => exact .same

/-! ### Outcomes that join a list (R111, R134) -/

theorem keepsCRings_finish (s : State) (r : RingId) (quiet : Bool) (o : Report) :
    KeepsCRings s (s.finish r quiet o) := .ite .same ((keepsCRings_joinList _ _ _).after .same)

theorem keepsCRings_claimEnd (s : State) (st : Status) (e : EntryId) : KeepsCRings s (s.claimEnd st e) := by
  obtain h | ⟨x, -, -, h⟩ := s.claimEnd_cases st e <;> rw [h]
  · exact .same
  · refine (keepsCRings_joinList _ _ _).after (KeepsCRings.after .same (.ite ?_ .same))
    exact (keepsCRings_moveOn _ _ _).after .same

theorem keepsCRings_claimAll (s : State) (st : Status) (es : List EntryId) : KeepsCRings s (s.claimAll st es) :=
  keepsCRings_foldl _ (fun s e => keepsCRings_claimEnd s st e) es s

theorem keepsCRings_startRequest (s : State) (r : RingId) (q : Request) : KeepsCRings s (s.startRequest r q) := by
  unfold State.startRequest
  split
  · exact keepsCRings_finish s r _ _
  · exact .same
  · exact .same
  · exact .same
  · exact .same
  · exact (keepsCRings_finish _ r _ _).after (keepsCRings_claimAll s _ _)

theorem keepsCRings_releaseFence (s : State) (r : RingId) : KeepsCRings s (s.releaseFence r) := by
  unfold State.releaseFence
  split
  · exact .ite (keepsCRings_startRequest s r _) .same
  · exact .same

theorem keepsCRings_fireAtArrival (s : State) (r : RingId) (h : Header) (act : Action) (w : CellValue) :
    KeepsCRings s (s.fireAtArrival r h act w) :=
  (keepsCRings_reportIf _ _ _).after ((keepsCRings_finish _ _ _ _).after .same)

theorem keepsCRings_armOrWait (s : State) (r : RingId) (q : Request) (act : Action) (k : Condition)
    (d : Option Time) : KeepsCRings s (s.armOrWait r q act k d) := by
  refine .ite (keepsCRings_finish _ _ _ _) ?_
  split <;> exact .same

/-- A fired entry joins its list, or is freed (R64). -/
theorem keepsCRings_fireEntry (s : State) (e : EntryId) (x : HoldEntry) (w : CellValue) :
    KeepsCRings s (s.fireEntry e x w) :=
  (keepsCRings_reportIf _ _ _).after
    (.ite (.same (freeEntry_crings _ _)) ((keepsCRings_joinList _ _ _).after .same))

theorem keepsCRings_testEntry (s : State) (c : CellId) (e : EntryId) (x : HoldEntry) :
    KeepsCRings s (s.testEntry c e x) :=
  .ite ((keepsCRings_releaseFence _ _).after ((keepsCRings_moveOn _ _ _).after (keepsCRings_fireEntry s e x _)))
    (keepsCRings_moveOn _ _ _)

theorem keepsCRings_takeRecord (s : State) (r : RingId) (x : Slot) (y : Option Slot) (n : Nat) :
    KeepsCRings s (s.takeRecord r x y n) := by
  unfold State.takeRecord
  dsimp only
  split
  · exact (keepsCRings_finish _ _ _ _).after .same
  · exact .ite .same ((keepsCRings_startRequest _ _ _).after .same)

theorem keepsCRings_takeKind (s : State) (r : RingId) (k : Option RequestKind) : KeepsCRings s (s.takeKind r k) := by
  unfold State.takeKind
  split
  · exact .ite (keepsCRings_takeRecord _ _ _ _ _) .same
  · exact .same

theorem keepsCRings_takeHold (s : State) (r : RingId) : KeepsCRings s (s.takeHold r) := by
  unfold State.takeHold
  split
  · exact .ite (keepsCRings_takeRecord _ _ _ _ _) .same
  · exact .same

/-! ### Reads -/

theorem keepsCRings_bulkFault (s : State) (r : RingId) : KeepsCRings s (s.bulkFault r) := by
  unfold State.bulkFault
  split
  · exact keepsCRings_finish _ _ _ _
  · exact .same

theorem keepsCRings_returnFault (s : State) (p : PlaceId) (x : Read) : KeepsCRings s (s.returnFault p x) := by
  obtain ⟨-, h⟩ | ⟨-, ⟨r, -, h⟩ | ⟨-, h⟩ | ⟨r, -, h⟩⟩ := s.returnFault_cases p x <;> rw [h]
  · exact .same
  · exact .ite .same .same
  · exact (keepsCRings_setFault _ _).after .same
  · exact (keepsCRings_bulkFault _ r).after .same

theorem keepsCRings_returnData (s : State) (p : PlaceId) (x : Read) (n : Nat) {f : State → State}
    (hf : KeepsCRings s (f (s.release p))) : KeepsCRings s (s.returnData p x n f) :=
  .ite .same (.ite (.ite hf .same) (keepsCRings_returnFault s p x))

theorem keepsCRings_bulkData (s : State) (r : RingId) (data : List CellValue) : KeepsCRings s (s.bulkData r data) := by
  unfold State.bulkData
  dsimp only
  split <;> exact .same

theorem keepsCRings_issueBulkRead (s : State) (p : PlaceId) (r : RingId) : KeepsCRings s (s.issueBulkRead p r) := by
  unfold State.issueBulkRead
  split
  · split <;> exact .same
  · exact .same

/-! ### Registers and device states -/

/-- A consumer post alone moves a completion ring, and only an ACTIVE one (R138). -/
theorem keepsCRings_postConsumer (s : State) (c : CRingId) (k : Nat) : KeepsCRings s (s.postConsumer c k) := by
  unfold State.postConsumer
  dsimp only
  split
  · next hc =>
    simp only [Bool.and_eq_true, consumerPostOk_iff] at hc
    obtain ⟨ha, hk, -⟩ := hc
    exact keepsCRings_setCRing s c fun h => .inr ((h.running ha).post hk)
  · exact keepsCRings_setFault s _

theorem keepsCRings_indexPost (s : State) (w : Word32) : KeepsCRings s (s.indexPost w) := by
  have fault : KeepsCRings s (s.setFault .postError) := keepsCRings_setFault s _
  unfold State.indexPost
  refine .ite fault ?_
  dsimp only
  split
  · exact .ite .same fault
  · refine .ite (.ite .same fault) ?_
    split
    · exact keepsCRings_postConsumer s _ _
    · exact .ite (.ite .same fault) fault

theorem keepsCRings_enterResetting (s : State) (mid : Bool) : KeepsCRings s (s.enterResetting mid) := by
  refine .ite .same ?_
  dsimp only
  split
  · obtain ⟨_, _, h⟩ := s.chargeGrant_frame _
    rw [h]
    exact .same
  · exact .same

theorem keepsCRings_controlWrite (s : State) (w : Word32) (mid : Bool) : KeepsCRings s (s.controlWrite w mid) :=
  .ite (keepsCRings_enterResetting s mid) (.ite (.ite .same (keepsCRings_setFault s _)) .same)

theorem keepsCRings_adminRegisterWrite (s : State) {f : State → State} (hf : KeepsCRings s (f s)) :
    KeepsCRings s (s.adminRegisterWrite f) := .ite hf (keepsCRings_setFault s _)

theorem keepsCRings_writeRegister (s : State) (offset size : Nat) (w : Word32) :
    KeepsCRings s (s.writeRegister offset size w) := by
  refine .ite .same ?_
  split
  · exact keepsCRings_controlWrite s w false
  · exact .same
  · exact keepsCRings_adminRegisterWrite s .same
  · exact keepsCRings_adminRegisterWrite s .same
  · exact keepsCRings_adminRegisterWrite s .same
  · exact keepsCRings_indexPost s w
  · exact .same

theorem keepsCRings_readRegister (s : State) (offset : Nat) (bytes : List Byte) :
    KeepsCRings s ((s.takeSnapshot offset).sendReply bytes) := by
  unfold State.takeSnapshot State.sendReply
  repeat' split
  all_goals exact .same

theorem keepsCRings_access (s : State) {f : State → State} (hf : KeepsCRings s (f s)) : KeepsCRings s (s.access f) :=
  .ite hf .same

/-- Every completion ring takes its reset values (R168). -/
theorem keepsCRings_reset {s t : State} (h : t.crings = State.reset.crings) : KeepsCRings s t := fun _ =>
  KeepsCRings.same h cringLaw_reset

/-! ### Records and messages -/

/-- A record is written to an ACTIVE ring, counted, and delivered (R136). -/
theorem keepsCRings_writeRingRecord (s : State) (c : CRingId) (ha : (s.cring c).active = true) :
    KeepsCRings s (s.writeRingRecord c) := by
  have hset (t : State) (ht : t.crings = s.crings) :
      KeepsCRings s (t.setCRing c (s.cring c).recordWritten.countRecord.1) := by
    refine (keepsCRings_setCRing t c fun h => ?_).after (.same ht)
    rw [State.cring, ht] at h
    exact .inr (CompletionRing.Lawful.running h ha).recordWritten.countRecord
  unfold State.writeRingRecord
  dsimp only
  split
  · exact .same
  · split
    · exact .same
    · exact (keepsCRings_deliver _ _).after
        (.ite ((keepsCRings_sendMessage _ _).after (hset _ rfl)) (hset _ rfl))

theorem keepsCRings_writeAdminRecord (s : State) : KeepsCRings s s.writeAdminRecord := by
  unfold State.writeAdminRecord
  dsimp only
  split
  · exact .same
  · split
    · exact .same
    · exact (keepsCRings_deliver _ _).after ((keepsCRings_sendMessage _ _).after .same)

/-! ### Admin requests -/

theorem keepsCRings_takeAdmin (s : State) (k : Option AdminKind) {f : State → Slot → State}
    (hf : ∀ t x, KeepsCRings t (f t x)) : KeepsCRings s (s.takeAdmin k f) := by
  unfold State.takeAdmin
  split
  · exact .ite ((hf _ _).after .same) .same
  · exact .same

theorem keepsCRings_endAdmin (s : State) (x : Slot) (st : Status) (n : Nat) (v : Option CellValue) :
    KeepsCRings s (s.endAdmin x st n v) := .same

theorem keepsCRings_configureRing (s : State) (x : Slot) : KeepsCRings s (s.configureRing x) := by
  unfold State.configureRing
  split
  · exact .same
  · split
    · exact .same
    · exact .ite .same .same

theorem keepsCRings_startRing (s : State) (x : Slot) : KeepsCRings s (s.startRing x) := by
  unfold State.startRing
  split
  · exact .same
  · exact .ite .same .same

theorem keepsCRings_stopRing (s : State) (x : Slot) : KeepsCRings s (s.stopRing x) := by
  unfold State.stopRing
  split
  · exact .same
  · split <;> exact .same

theorem keepsCRings_abortContext (s : State) (r : RingId) : KeepsCRings s (s.abortContext r) := by
  have aborted (q : Request) (n : Nat) (m : Bool) : KeepsCRings s (s.abortRequest r q n m) :=
    (keepsCRings_finish _ _ _ _).after (.ite .same .same)
  unfold State.abortContext
  split
  · exact .same
  · exact aborted _ _ _
  · exact aborted _ _ _
  · exact aborted _ _ _
  · exact aborted _ _ _
  · exact .same

theorem keepsCRings_resetRing (s : State) (x : Slot) : KeepsCRings s (s.resetRing x) := by
  unfold State.resetRing
  split
  · exact .same
  · next r _ =>
    have htaken : KeepsCRings s (s.resetTaken r) :=
      (keepsCRings_abortContext _ r).after ((keepsCRings_claimAll _ _ _).after .same)
    exact .ite .same ((keepsCRings_endAdmin _ _ _ _ _).after htaken)

/-- A ring is configured with items in range (R131, R157). -/
theorem keepsCRings_configureCRing (s : State) (x : Slot) : KeepsCRings s (s.configureCRing x) := by
  unfold State.configureCRing
  split
  · exact .same
  · next c _ =>
    split
    · exact .same
    · next y hy =>
      exact .ite .same
        ((keepsCRings_endAdmin _ _ _ _ _).after (keepsCRings_setCRing s c fun _ => .inr (running_of_decode hy)))

/-- The outcomes of a ring are discarded, and it takes its reset values (R133). -/
theorem keepsCRings_resetCRing (s : State) (x : Slot) : KeepsCRings s (s.resetCRing x) := by
  unfold State.resetCRing
  split
  · exact .same
  · next c _ =>
    have htaken : KeepsCRings s (s.resetCRingTaken c) :=
      (keepsCRings_setCRing _ c fun _ => lawful_reset).after (keepsCRings_foldl _ keepsCRings_discard _ s)
    exact .ite .same ((keepsCRings_endAdmin _ _ _ _ _).after htaken)

theorem keepsCRings_cancelWaiting (s : State) (r : RingId) : KeepsCRings s (s.cancelWaiting r) := by
  unfold State.cancelWaiting
  split
  · exact keepsCRings_finish _ _ _ _
  · exact .same

theorem keepsCRings_cancelHoldsRequest (s : State) (x : Slot) : KeepsCRings s (s.cancelHoldsRequest x) := by
  unfold State.cancelHoldsRequest
  split
  · exact .same
  · next rs _ =>
    have hcancel : KeepsCRings s (s.cancelRings rs (slotHalf x 32) (slotHalf x 48)) :=
      (keepsCRings_foldl _ keepsCRings_releaseFence rs _).after
        ((keepsCRings_foldl _ keepsCRings_cancelWaiting _ _).after (keepsCRings_claimAll s _ _))
    exact (keepsCRings_endAdmin _ _ _ _ _).after hcancel

theorem keepsCRings_readStatusRequest (s : State) (x : Slot) : KeepsCRings s (s.readStatusRequest x) := by
  unfold State.readStatusRequest
  split <;> exact .same

/-! ### Every command -/

/-- Every next state of an outcome keeps the law of the completion rings. -/
def KeepsCRingsTo (s : State) (o : Host.Outcome State Fault Refusal) : Prop := ∀ t, o = .next t → KeepsCRings s t

theorem keepsCRingsTo_next {s t : State} (h : KeepsCRings s t) : KeepsCRingsTo s (.next t) :=
  fun _ e => by cases e; exact h

theorem keepsCRingsTo_same (s : State) : KeepsCRingsTo s (.next s) := keepsCRingsTo_next .same

theorem keepsCRingsTo_fault (s : State) (x : Fault) : KeepsCRingsTo s (.fault x) := fun _ e => by cases e

theorem keepsCRingsTo_microsecondTick (s : State) : KeepsCRingsTo s (execMicrosecondTick s) := by
  refine keepsCRingsTo_next fun hs c => ?_
  change CompletionRing.Lawful (if s.device = .running then s.crings.map CompletionRing.tick else s.crings)[c]
  split
  · rw [show (s.crings.map CompletionRing.tick)[c] = (s.cring c).tick from cring_mapTick s c]
    exact CompletionRing.Lawful.tick (hs c)
  · exact hs c

theorem keepsCRingsTo_expiry (s : State) : KeepsCRingsTo s (execExpiry s) := by
  refine keepsCRingsTo_next ?_
  split
  · exact .same
  · split
    · exact .ite ((keepsCRings_releaseFence _ _).after (keepsCRings_claimEnd _ _ _)) .same
    · exact .same

theorem keepsCRingsTo_waitEntryTimeout (r : RingId) (s : State) : KeepsCRingsTo s (execWaitEntryTimeout r s) := by
  refine keepsCRingsTo_next ?_
  split
  · exact .ite (keepsCRings_finish _ _ _ _) .same
  · exact .same

theorem keepsCRingsTo_holdoffExpiry (c : CRingId) (s : State) : KeepsCRingsTo s (execHoldoffExpiry c s) :=
  keepsCRingsTo_next
    (.ite ((keepsCRings_sendMessage _ _).after (keepsCRings_setCRing s c fun h => h.signalled)) .same)

theorem keepsCRingsTo_readTimeout (p : PlaceId) (s : State) : KeepsCRingsTo s (execReadTimeout p s) := by
  refine keepsCRingsTo_next ?_
  split
  · exact .ite (keepsCRings_returnFault s p _) .same
  · exact .same

theorem keepsCRingsTo_fetchReadIssue (s : State) : KeepsCRingsTo s (execFetchReadIssue s) := by
  refine keepsCRingsTo_next (.ite ?_ .same)
  split
  · exact .same
  · refine .ite .same ?_
    split <;> exact .same

theorem keepsCRingsTo_bulkDataReadIssue (s : State) : KeepsCRingsTo s (execBulkDataReadIssue s) := by
  refine keepsCRingsTo_next (.ite ?_ .same)
  split
  · exact keepsCRings_issueBulkRead s _ _
  · exact .same

theorem keepsCRingsTo_fetchReadFault (p : PlaceId) (s : State) : KeepsCRingsTo s (execFetchReadFault p s) := by
  refine keepsCRingsTo_next ?_
  split
  · split
    · exact keepsCRings_returnFault s p _
    · exact .same
  · exact .same

theorem keepsCRingsTo_adminFetchReadFault (p : PlaceId) (s : State) :
    KeepsCRingsTo s (execAdminFetchReadFault p s) := by
  refine keepsCRingsTo_next ?_
  split
  · split
    · exact keepsCRings_returnFault s p _
    · exact .same
  · exact .same

theorem keepsCRingsTo_bulkDataFault (p : PlaceId) (s : State) : KeepsCRingsTo s (execBulkDataFault p s) := by
  refine keepsCRingsTo_next ?_
  split
  · split
    · exact keepsCRings_returnFault s p _
    · exact .same
  · exact .same

theorem keepsCRingsTo_fetchReadReturn (p : PlaceId) (data : List Slot) (s : State) :
    KeepsCRingsTo s (execFetchReadReturn p data s) := by
  refine keepsCRingsTo_next ?_
  split
  · split
    · exact keepsCRings_returnData s p _ _ (.ite .same .same)
    · exact .same
  · exact .same

theorem keepsCRingsTo_adminFetchReturn (p : PlaceId) (data : List Slot) (s : State) :
    KeepsCRingsTo s (execAdminFetchReturn p data s) := by
  refine keepsCRingsTo_next ?_
  split
  · split
    · exact keepsCRings_returnData s p _ _ .same
    · exact .same
  · exact .same

theorem keepsCRingsTo_bulkDataReturn (p : PlaceId) (data : List CellValue) (s : State) :
    KeepsCRingsTo s (execBulkDataReturn p data s) := by
  refine keepsCRingsTo_next ?_
  split
  · split
    · exact keepsCRings_returnData s p _ _ ((keepsCRings_bulkData _ _ _).after .same)
    · exact .same
  · exact .same

/-! The cell-port operations, under their grant. -/

theorem keepsCRingsTo_updateOperation (r : RingId) (s : State) : KeepsCRingsTo s (execUpdateOperation r s) := by
  refine keepsCRingsTo_next ?_
  split
  · split
    · next hg => exact (keepsCRings_fireAtArrival _ _ _ _ 0).after (keepsCRings_grant hg)
    · exact .same
  · exact .same

theorem keepsCRingsTo_holdArrival (r : RingId) (s : State) : KeepsCRingsTo s (execHoldArrival r s) := by
  refine keepsCRingsTo_next ?_
  split
  · split
    · next hg =>
      refine KeepsCRings.after ?_ (keepsCRings_grant hg)
      exact .ite (keepsCRings_fireAtArrival _ _ _ _ _)
        (.ite (keepsCRings_finish _ _ _ _) (keepsCRings_armOrWait _ _ _ _ _ _))
    · exact .same
  · exact .same

theorem keepsCRingsTo_holdRetry (r : RingId) (s : State) : KeepsCRingsTo s (execHoldRetry r s) := by
  refine keepsCRingsTo_next ?_
  split
  · split
    · next hg =>
      refine KeepsCRings.after ?_ (keepsCRings_grant hg)
      exact .ite (keepsCRings_fireAtArrival _ _ _ _ _)
        (.ite (keepsCRings_finish _ _ _ _) (keepsCRings_armOrWait _ _ _ _ _ _))
    · exact .same
  · exact .same

theorem keepsCRingsTo_scanStep (s : State) : KeepsCRingsTo s (execScanStep s) := by
  refine keepsCRingsTo_next ?_
  split
  · split
    · split
      · split
        · next hg => exact (keepsCRings_testEntry _ _ _ _).after (keepsCRings_grant hg)
        · exact .same
      · exact .same
    · exact .same
  · exact .same

theorem keepsCRingsTo_bulkReadCell (r : RingId) (s : State) : KeepsCRingsTo s (execBulkReadCell r s) := by
  unfold execBulkReadCell
  split
  · dsimp only
    split
    · split
      · next hg =>
        split
        · exact keepsCRingsTo_fault s _
        · refine keepsCRingsTo_next (KeepsCRings.after ?_ (keepsCRings_grant hg))
          exact .ite .same ((keepsCRings_finish _ _ _ _).after .same)
      · exact keepsCRingsTo_same s
    · exact keepsCRingsTo_same s
  · exact keepsCRingsTo_same s

theorem keepsCRingsTo_bulkWriteCell (r : RingId) (s : State) : KeepsCRingsTo s (execBulkWriteCell r s) := by
  unfold execBulkWriteCell
  split
  · dsimp only
    split
    · split
      · next hg =>
        split
        · refine keepsCRingsTo_next
            ((keepsCRings_reportIf _ _ _).after (KeepsCRings.after ?_ (keepsCRings_grant hg)))
          exact .ite .same ((keepsCRings_finish _ _ _ _).after .same)
        · exact keepsCRingsTo_fault s _
      · exact keepsCRingsTo_same s
    · exact keepsCRingsTo_same s
  · exact keepsCRingsTo_same s

theorem keepsCRingsTo_clearCellsCell (s : State) : KeepsCRingsTo s (execClearCellsCell s) := by
  unfold execClearCellsCell
  split
  · split
    · split
      · next hg =>
        split
        · refine keepsCRingsTo_next
            ((keepsCRings_reportIf _ _ _).after (KeepsCRings.after ?_ (keepsCRings_grant hg)))
          exact .ite .same .same
        · exact keepsCRingsTo_fault s _
      · exact keepsCRingsTo_same s
    · exact keepsCRingsTo_same s
  · exact keepsCRingsTo_same s

theorem keepsCRingsTo_fetchEventEntry (r : RingId) (s : State) : KeepsCRingsTo s (execFetchEventEntry r s) := by
  refine keepsCRingsTo_next ?_
  split
  · exact .ite ((keepsCRings_finish _ _ _ _).after .same) .same
  · exact .same

/-- A completion ring that may write a record is ACTIVE (R136). -/
theorem keepsCRingsTo_completionRecordWrite (l : ListId) (s : State) :
    KeepsCRingsTo s (execCompletionRecordWrite l s) := by
  refine keepsCRingsTo_next ?_
  split
  · next hmay =>
    cases l with
    | admin => exact keepsCRings_writeAdminRecord s
    | ring c =>
      obtain ⟨hcan, -⟩ := (s.mayWrite_ring c).1 hmay
      obtain ⟨-, hactive, -⟩ := (canWrite_ring_iff s c).1 hcan
      exact keepsCRings_writeRingRecord s c hactive
  · exact .same

theorem keepsCRingsTo_heldMessageRelease (s : State) : KeepsCRingsTo s (execHeldMessageRelease s) := by
  refine keepsCRingsTo_next ?_
  split
  · exact keepsCRings_releaseVector _ _
  · exact .same

theorem keepsCRingsTo_postedWriteDepart (s : State) : KeepsCRingsTo s (execPostedWriteDepart s) := by
  refine keepsCRingsTo_next (.ite ?_ .same)
  split <;> exact .same

theorem exec_keepsCRings (c : Instr) (s : State) : KeepsCRingsTo s (exec c s) := by
  cases c with
  | powerOnReset => exact keepsCRingsTo_next (keepsCRings_reset rfl)
  | linkReset mid => exact keepsCRingsTo_next (KeepsCRings.after .same (keepsCRings_enterResetting s mid))
  | controlEnable w => exact keepsCRingsTo_next (keepsCRings_access s (keepsCRings_controlWrite s w false))
  | controlReset w mid => exact keepsCRingsTo_next (keepsCRings_access s (keepsCRings_controlWrite s w mid))
  | resetValuesTaken => exact keepsCRingsTo_next (.ite (keepsCRings_reset rfl) .same)
  | faultWrite w => exact keepsCRingsTo_next (keepsCRings_access s .same)
  | adminBaseLowWrite w => exact keepsCRingsTo_next (keepsCRings_access s (keepsCRings_adminRegisterWrite s .same))
  | adminBaseHighWrite w => exact keepsCRingsTo_next (keepsCRings_access s (keepsCRings_adminRegisterWrite s .same))
  | adminSizeWrite w => exact keepsCRingsTo_next (keepsCRings_access s (keepsCRings_adminRegisterWrite s .same))
  | requestRingProducerPost w => exact keepsCRingsTo_next (keepsCRings_access s (keepsCRings_indexPost s w))
  | adminProducerPost w => exact keepsCRingsTo_next (keepsCRings_access s (keepsCRings_indexPost s w))
  | completionConsumerPost w => exact keepsCRingsTo_next (keepsCRings_access s (keepsCRings_indexPost s w))
  | adminCompletionConsumerPost w => exact keepsCRingsTo_next (keepsCRings_access s (keepsCRings_indexPost s w))
  | timeLowRead first count => exact keepsCRingsTo_next (keepsCRings_access s (keepsCRings_readRegister s _ _))
  | registerWriteIgnored offset size w =>
    exact keepsCRingsTo_next (keepsCRings_access s (keepsCRings_writeRegister s offset size w))
  | microsecondTick => exact keepsCRingsTo_microsecondTick s
  | expiry => exact keepsCRingsTo_expiry s
  | waitEntryTimeout r => exact keepsCRingsTo_waitEntryTimeout r s
  | holdoffExpiry c => exact keepsCRingsTo_holdoffExpiry c s
  | readTimeout p => exact keepsCRingsTo_readTimeout p s
  | fetchReadIssue => exact keepsCRingsTo_fetchReadIssue s
  | fetchReadReturn p data => exact keepsCRingsTo_fetchReadReturn p data s
  | fetchReadFault p => exact keepsCRingsTo_fetchReadFault p s
  | adminFetchReturn p data => exact keepsCRingsTo_adminFetchReturn p data s
  | adminFetchReadFault p => exact keepsCRingsTo_adminFetchReadFault p s
  | bulkDataReadIssue => exact keepsCRingsTo_bulkDataReadIssue s
  | bulkDataReturn p data => exact keepsCRingsTo_bulkDataReturn p data s
  | bulkDataFault p => exact keepsCRingsTo_bulkDataFault p s
  | nop r => exact keepsCRingsTo_next (keepsCRings_takeKind s r _)
  | unknownKind r => exact keepsCRingsTo_next (keepsCRings_takeKind s r _)
  | update r => exact keepsCRingsTo_next (keepsCRings_takeKind s r _)
  | updateOperation r => exact keepsCRingsTo_updateOperation r s
  | hold r => exact keepsCRingsTo_next (keepsCRings_takeHold s r)
  | holdArrival r => exact keepsCRingsTo_holdArrival r s
  | holdRetry r => exact keepsCRingsTo_holdRetry r s
  | scanStep => exact keepsCRingsTo_scanStep s
  | bulkRead r => exact keepsCRingsTo_next (keepsCRings_takeKind s r _)
  | bulkReadCell r => exact keepsCRingsTo_bulkReadCell r s
  | bulkWrite r => exact keepsCRingsTo_next (keepsCRings_takeKind s r _)
  | bulkWriteCell r => exact keepsCRingsTo_bulkWriteCell r s
  | cancel r => exact keepsCRingsTo_next (keepsCRings_takeKind s r _)
  | fetchEventEntry r => exact keepsCRingsTo_fetchEventEntry r s
  | drainEnd r => exact keepsCRingsTo_next (.ite .same .same)
  | completionRecordWrite l => exact keepsCRingsTo_completionRecordWrite l s
  | heldMessageRelease => exact keepsCRingsTo_heldMessageRelease s
  | postedWriteDepart => exact keepsCRingsTo_postedWriteDepart s
  | adminNop => exact keepsCRingsTo_next (keepsCRings_takeAdmin s _ fun _ _ => .same)
  | adminUnknownKind => exact keepsCRingsTo_next (keepsCRings_takeAdmin s _ fun _ _ => .same)
  | configureRequestRing => exact keepsCRingsTo_next (keepsCRings_takeAdmin s _ keepsCRings_configureRing)
  | configureCompletionRing => exact keepsCRingsTo_next (keepsCRings_takeAdmin s _ keepsCRings_configureCRing)
  | startRing => exact keepsCRingsTo_next (keepsCRings_takeAdmin s _ keepsCRings_startRing)
  | stopRing => exact keepsCRingsTo_next (keepsCRings_takeAdmin s _ keepsCRings_stopRing)
  | resetRing => exact keepsCRingsTo_next (keepsCRings_takeAdmin s _ keepsCRings_resetRing)
  | resetCompletionRing => exact keepsCRingsTo_next (keepsCRings_takeAdmin s _ keepsCRings_resetCRing)
  | cancelHolds => exact keepsCRingsTo_next (keepsCRings_takeAdmin s _ keepsCRings_cancelHoldsRequest)
  | clearCells => exact keepsCRingsTo_next (keepsCRings_takeAdmin s _ fun _ _ => .ite .same .same)
  | clearCellsCell => exact keepsCRingsTo_clearCellsCell s
  | readStatus => exact keepsCRingsTo_next (keepsCRings_takeAdmin s _ keepsCRings_readStatusRequest)
  | configurationSpaceWrite cfg =>
    exact keepsCRingsTo_next ((keepsCRings_dropMessages _).after (.ite .same .same))

/-- Settles O56: the operations of which every command is composed keep the law of each completion ring. -/
theorem stepsKeepTheCompletionRings : Obligations.StepsKeepTheCompletionRings := by
  intro s t hs h
  unfold step at h
  split at h
  · cases h; exact hs
  · next c rest _ => exact exec_keepsCRings c _ t h hs

end Sys2Proof.Machine
end

section
/-! PROOFS. The record write of the admin completion area (R132, R136, R137, R147, R154): when it is made, and the
record, its message and the admin context after it. -/

namespace Sys2Proof.Machine

-- One proof at a time: each further thread of the compile takes 1 GB of the check's fixed memory.
set_option Elab.async false

theorem canWrite_admin_iff (s : State) : s.canWrite .admin = true ↔
    s.adminArea.list ≠ [] ∧ (s.adminArea.producer + 1) % s.admin.size ≠ s.adminArea.consumer ∧
      s.device = .running ∧ s.postq.length < 16 ∧ ∀ i : VectorId, s.held[i] = none := by
  rw [← hasRoom_iff]
  simp [State.canWrite, State.outcomeList, State.listOpen, ringFull, and_assoc]

theorem exec_completionRecordWrite_admin (s : State) : exec (.completionRecordWrite .admin) s =
    .next (if s.canWrite .admin then s.writeAdminRecord else s) := by
  rw [← s.mayWrite_admin]
  rfl

/-- The head record of the admin completion area is handed over, and the area moves past it (R136 steps 2 to 4). -/
def State.adminRecordSent (s : State) (rest : List Source) (bytes : RecordBytes) : State :=
  { s.handOver (.record (s.adminRecordsBase + BitVec.ofNat 64 (32 * s.adminArea.producer)) bytes) with
    adminArea := ⟨nextIndex s.admin.size s.adminArea.producer, s.adminArea.consumer,
      if nextIndex s.admin.size s.adminArea.producer = 0 then !s.adminArea.phase else s.adminArea.phase, rest⟩ }

/-- Every admin record sends a message on vector 0, and frees the admin context (R147, R154). -/
theorem writeAdminRecord_eq {s : State} {o : Report} {rest : List Source} (hl : s.adminArea.list = .admin :: rest)
    (hw : s.adminCtx = .reporting o) : s.writeAdminRecord = State.deliver
      ((s.adminRecordSent rest (formRecord s.adminArea.phase adminSourceCode s.admin.consumer o)).sendMessage 0)
      .admin := by
  have hb : s.recordOf s.adminArea.phase .admin =
      some (formRecord s.adminArea.phase adminSourceCode s.admin.consumer o) := by
    simp only [State.recordOf, hw]
  simp only [State.writeAdminRecord, hl, hb]
  rfl

/-- Vector 0 is message number 0, which adds nothing to the message data (R176). -/
theorem messageFor_zero (s : State) : s.messageFor 0 = ⟨s.cfg.msiAddress, s.cfg.msiData⟩ := by
  simp [State.messageFor, State.messageNumber]

section
variable {s : State} (rest : List Source) (bytes : RecordBytes)

theorem length_postq_adminRecordSent : (s.adminRecordSent rest bytes).postq.length = s.postq.length + 1 :=
  List.length_append

/-- The message joins the queue behind the record (R174). -/
theorem adminRecordSent_joins (hr : s.postq.length < 15) (hn : ∀ i : VectorId, s.held[i] = none) :
    (s.adminRecordSent rest bytes).sendMessage 0 =
      (s.adminRecordSent rest bytes).handOver (.message ⟨s.cfg.msiAddress, s.cfg.msiData⟩) := by
  have hroom : (s.adminRecordSent rest bytes).postq.length < 16 := by
    rw [length_postq_adminRecordSent]
    omega
  rw [sendMessage_joins _ 0 hroom hn (.inl (List.append_ne_nil_of_right_ne_nil _ (List.cons_ne_nil _ _))),
    messageFor_zero]
  rfl

/-- When the record takes the last place its message is held (R174). -/
theorem adminRecordSent_holds (hf : s.postq.length = 15) (hn : ∀ i : VectorId, s.held[i] = none) :
    (s.adminRecordSent rest bytes).sendMessage 0 = { s.adminRecordSent rest bytes with
      held := s.held.set 0 (some ⟨s.cfg.msiAddress, s.cfg.msiData⟩) } := by
  have hfull : (s.adminRecordSent rest bytes).placeFree = false :=
    decide_eq_false (by rw [length_postq_adminRecordSent, hf]; decide)
  rw [State.sendMessage_held _ 0 hfull (hn 0), messageFor_zero]
  rfl

/-- What handing over the record and its message moves: the area, the queue and the held messages. -/
theorem adminRecordSent_frame (hr : s.postq.length < 16) (hn : ∀ i : VectorId, s.held[i] = none) : ∃ q h,
    (s.adminRecordSent rest bytes).sendMessage 0 =
      { s with adminArea := (s.adminRecordSent rest bytes).adminArea, postq := q, held := h } := by
  by_cases hlt : s.postq.length < 15
  · rw [adminRecordSent_joins rest bytes hlt hn]
    exact ⟨_, _, rfl⟩
  · rw [adminRecordSent_holds rest bytes (by omega) hn]
    exact ⟨_, _, rfl⟩

end

/-- Settles O36: the record and its message are handed over, and the admin context is freed. -/
theorem adminRecordsAreWrittenAndDelivered : Obligations.AdminRecordsAreWrittenAndDelivered := by
  refine ⟨?_, fun s h => ?_⟩
  · intro s o rest hd hw hl x n next m record hfull hheld hroom
    have hcan : s.canWrite .admin = true :=
      (canWrite_admin_iff s).2 ⟨by rw [hl]; nofun, hfull, hd, hroom, hheld⟩
    obtain ⟨u, hu⟩ : ∃ u, u =
      (s.adminRecordSent rest (formRecord x.phase 8 s.admin.consumer o)).sendMessage 0 := ⟨_, rfl⟩
    have hexec : exec (.completionRecordWrite .admin) s = .next { u with adminCtx := .empty } := by
      rw [exec_completionRecordWrite_admin, if_pos hcan, writeAdminRecord_eq hl hw, hu]
      rfl
    obtain ⟨_, _, hsent⟩ := adminRecordSent_frame rest (formRecord x.phase 8 s.admin.consumer o) hroom hheld
    refine ⟨_, hexec, rfl, ?_, fun hlt => ?_, fun hlast => ?_, ?_⟩
    · rw [hu, hsent]
      rfl
    · rw [hu, adminRecordSent_joins rest _ hlt hheld]
      exact ⟨List.append_assoc _ _ _, rfl⟩
    · rw [hu, adminRecordSent_holds rest _ hlast hheld]
      exact ⟨rfl, getElem_set_held s.held hheld 0 m⟩
    · rw [hu, hsent]
  · have hno : ¬ s.canWrite .admin = true := by
      rw [canWrite_admin_iff]
      rintro ⟨hl, hf, hd, hr, hh⟩
      obtain h | h | h | h | ⟨i, h⟩ := h
      · exact hl h
      · exact hf h
      · exact h hd
      · omega
      · exact h (hh i)
    rw [exec_completionRecordWrite_admin, if_neg hno]

end Sys2Proof.Machine
end

section
/-! PROOFS. The 32 bytes of a completion record, field by field (R140, R185, Tables 11-4 and 11-10). -/

namespace Sys2Proof.Machine

-- One proof at a time: each further thread of the compile takes 1 GB of the check's fixed memory.
set_option Elab.async false

/-- Each status stands in Table 11-10 at its code. -/
theorem getElem?_status_code (st : Status) : ([Status.ok, .notMet, .timeout, .cancelled, .aborted, .badRequest, .denied,
    .quota, .readFault, .badConfig, .ringState])[st.code.toNat]? = some st := by
  cases st <;> rfl

/-- The four flags stand at bits 0 to 3 (Table 11-4). -/
theorem toNat_flagByte (o : Report) : (flagByte o).toNat = (if o.flags.changed then 1 else 0) +
    (if o.flags.wrap then 2 else 0) + (if o.flags.matched then 4 else 0) + (if o.value.isSome then 8 else 0) := by
  unfold flagByte
  generalize o.value.isSome = v
  obtain ⟨c, w, m⟩ := o.flags
  revert c w m v
  decide

/-- A record, seen as the chain of its fields with the width of each. -/
theorem extractLsb'_formRecord (phase : Bool) (source : Byte) (head : Nat) (o : Report) (i n : Nat) :
    (formRecord phase source head o).extractLsb' i n =
      (o.value.getD 0 ++ o.endTime ++ BitVec.ofNat 16 o.count ++ BitVec.ofNat 16 head ++ o.tag ++ (0 : Byte) ++
        flagByte o ++ source ++ o.kind ++ o.status.code ++ bitByte phase).extractLsb' i n := rfl

/-- Settles O38: each field stands at its place in the chain. -/
theorem recordsAreLaidOutByTable114 : Obligations.RecordsAreLaidOutByTable114 := by
  intro phase source head o b
  simp (disch := omega) only [b, extractLsb'_formRecord, BitVec.extractLsb'_append_eq_of_le,
    BitVec.extractLsb'_append_eq_of_add_le]
  simp [getElem?_status_code, toNat_bitByte, toNat_flagByte]

end Sys2Proof.Machine
end

section
/-! PROOFS. The register window's own registers (R150, R162, R164 to R166, R177, R179, R186): the writes of the admin
registers and of ENABLE by device state, and the value of each register bit by bit. -/

namespace Sys2Proof.Machine

-- One proof at a time: each further thread of the compile takes 1 GB of the check's fixed memory.
set_option Elab.async false

/-! ### The admin registers (R150, R173) -/

theorem access_enabled {s : State} (h : s.cfg.memorySpace = true) (f : State → State) : s.access f = f s := if_pos h

theorem adminSizeValid_iff (n : Nat) : adminSizeValid n = true ↔ n ∈ [16, 32, 64, 128, 256] := by
  simp [adminSizeValid, or_assoc]

/-- Masking the six lowest bits of an address is shifting them out and back. -/
theorem and_not_low_six (x : HostAddr) : x &&& ~~~(0x3F : HostAddr) = (x >>> 6) <<< 6 := by
  refine BitVec.eq_of_getLsbD_eq fun i hi => ?_
  have hlow : (0x3F : HostAddr).getLsbD i = decide (i < 6) := Nat.testBit_two_pow_sub_one 6 i
  rw [BitVec.getLsbD_and, BitVec.getLsbD_not, hlow, BitVec.getLsbD_shiftLeft, BitVec.getLsbD_ushiftRight]
  by_cases h : i < 6
  · simp [h]
  · simp [h, hi, Nat.add_sub_cancel' (Nat.not_lt.1 h)]

section
variable {s : State} (w : Word32)

theorem adminRegisterWrite_idle (hd : s.device = .idle) (f : State → State) : s.adminRegisterWrite f = f s := if_pos hd

theorem adminRegisterWrite_refused (hd : s.device ≠ .idle) (f : State → State) :
    s.adminRegisterWrite f = s.setFault .configError := if_neg hd

/-- With memory space enabled each admin register's command is the write of R150 (R173). -/
theorem exec_adminRegisterWrite (hm : s.cfg.memorySpace = true) :
    exec (.adminBaseLowWrite w) s = .next (s.adminRegisterWrite (fun s => { s with adminBaseLow := w })) ∧
    exec (.adminBaseHighWrite w) s = .next (s.adminRegisterWrite (fun s => { s with adminBaseHigh := w })) ∧
    exec (.adminSizeWrite w) s = .next (s.adminRegisterWrite (fun s => { s with adminSize := w })) :=
  ⟨congrArg _ (access_enabled hm _), congrArg _ (access_enabled hm _), congrArg _ (access_enabled hm _)⟩

end

/-! ### ENABLE (R162, R164) -/

section
variable {s : State} {w : Word32}

/-- A write of CONTROL with ENABLE set and RESET clear enters RUNNING from IDLE alone (R164). -/
theorem exec_controlEnable (hm : s.cfg.memorySpace = true) (h0 : w.getLsbD 0 = true) (h1 : w.getLsbD 1 = false) :
    exec (.controlEnable w) s = .next (if s.device = .idle then s.enable else s) := by
  refine congrArg _ ((access_enabled hm _).trans ?_)
  rw [State.controlWrite, if_neg (Bool.eq_false_iff.1 h1), h0, Bool.true_and]
  simp only [decide_eq_true_eq]

theorem enable_valid (h : s.adminSize.toNat ∈ [16, 32, 64, 128, 256]) : s.enable = { s with
    device := .running
    admin := ⟨((s.adminBaseHigh ++ s.adminBaseLow) >>> 6) <<< 6, s.adminSize.toNat, 0, 0, 0, []⟩
    adminCtx := .empty
    adminArea := ⟨0, 0, true, []⟩ } := by
  rw [State.enable, if_pos ((adminSizeValid_iff _).2 h), State.adminBase, and_not_low_six]
  rfl

theorem enable_invalid (h : s.adminSize.toNat ∉ [16, 32, 64, 128, 256]) : s.enable = s.setFault .configError :=
  if_neg (mt (adminSizeValid_iff _).1 h)

end

/-- Settles O6: the three writes by the one rule of R150, and ENABLE by the test on ADMIN SIZE. -/
theorem adminRegistersAndEnable : Obligations.AdminRegistersAndEnable := by
  intro s w hm
  obtain ⟨hlow, hhigh, hsize⟩ := exec_adminRegisterWrite w hm
  rw [hlow, hhigh, hsize]
  refine ⟨fun hd => ?_, fun hd => ?_, fun h0 h1 => ?_⟩
  · simp only [adminRegisterWrite_idle hd, and_self]
  · simp only [adminRegisterWrite_refused hd, and_self]
  · rw [exec_controlEnable hm h0 h1]
    refine ⟨fun hd hv => ?_, fun hd hv => ?_, fun hd => ?_⟩
    · rw [if_pos hd, enable_valid hv]
    · rw [if_pos hd, enable_invalid hv]
    · rw [if_neg hd]

/-! ### The values that reads return (Table 11-13) -/

theorem getLsbD_bitByte (b : Bool) (i : Nat) : (bitByte b).getLsbD i = (decide (i = 0) && b) := by
  cases b <;> simp [bitByte]

/-- FAULT, bit by bit (R166). -/
theorem getLsbD_faultValue (f : FaultBits) (i : Nat) : f.value.getLsbD i =
    if i = 0 then f.adminFetch else if i = 1 then f.postError else if i = 2 then f.configError else false := by
  simp only [FaultBits.value, BitVec.getLsbD_setWidth, BitVec.getLsbD_or, BitVec.getLsbD_shiftLeft, getLsbD_bitByte]
  match i with
  | 0 => simp
  | 1 => simp
  | 2 => simp
  | n + 3 => simp

/-- STATUS, bit by bit: the device state code takes two bits and the total occupancy nine (R165). -/
theorem getLsbD_statusValue (s : State) (i : Nat) : s.statusValue.getLsbD i =
    if i < 2 then s.device.code.getLsbD i
    else if 16 ≤ i ∧ i ≤ 24 then s.totalOccupancy.testBit (i - 16)
    else false := by
  have hcode : s.device.code.toNat < 2 ^ 2 := by cases s.device <;> decide
  have hocc : s.totalOccupancy < 2 ^ 9 := (totalOccupancy_le s).trans_lt (by decide)
  have hbits : s.statusValue.getLsbD i = (decide (i < 32) &&
      if i < 16 then s.device.code.getLsbD i else s.totalOccupancy.testBit (i - 16)) := by
    rw [State.statusValue, BitVec.getLsbD_ofNat, Nat.add_comm,
      Nat.testBit_two_pow_mul_add (i := 16) _ (hcode.trans (by decide))]
    rfl
  have hcodeHigh : 2 ≤ i → s.device.code.getLsbD i = false := fun h =>
    Nat.testBit_lt_two_pow (hcode.trans_le (Nat.pow_le_pow_right (by decide) h))
  have hoccHigh : 9 ≤ i - 16 → s.totalOccupancy.testBit (i - 16) = false := fun h =>
    Nat.testBit_lt_two_pow (hocc.trans_le (Nat.pow_le_pow_right (by decide) h))
  rw [hbits]
  by_cases h2 : i < 2
  · rw [if_pos h2, if_pos (by omega), decide_eq_true (by omega), Bool.true_and]
  · rw [if_neg h2]
    by_cases hlow : i < 16
    · rw [if_pos hlow, hcodeHigh (Nat.not_lt.1 h2), if_neg (by omega), Bool.and_false]
    · rw [if_neg hlow]
      by_cases hhigh : i ≤ 24
      · rw [if_pos ⟨Nat.not_lt.1 hlow, hhigh⟩, decide_eq_true (by omega), Bool.true_and]
      · rw [hoccHigh (by omega), if_neg (by omega), Bool.and_false]

/-- The table ends at 0x27 (Table 11-13). -/
theorem readRegister_reserved (s : State) {offset : Nat} (h : 0x28 ≤ offset) : s.readRegister offset = 0 := by
  unfold State.readRegister
  split
  case h_9 => rfl
  all_goals omega

/-- Settles O12: STATUS and FAULT bit by bit, and every other register by its definition. -/
theorem registerReads : Obligations.RegisterReads := fun s =>
  ⟨rfl, rfl, rfl, getLsbD_statusValue s, getLsbD_faultValue s.fault, rfl, rfl, rfl, BitVec.toNat_setWidth ..,
    BitVec.toNat_setWidth_of_le (by decide), fun _ => readRegister_reserved s⟩

end Sys2Proof.Machine
end

section
/-! PROOFS. The resets (R164, R167, R168, R175, R176): the entries to RESETTING, and the values that every block takes
at the end of it. -/

namespace Sys2Proof.Machine

-- One proof at a time: each further thread of the compile takes 1 GB of the check's fixed memory.
set_option Elab.async false

/-! ### The operation in progress (R21, R167) -/

section
variable (s : State) (mid : Bool)

/-- The state with the grant of the operation in progress, if there is one, charged (R20, log entry 10). -/
def State.chargeInProgress : State :=
  match s.operationInProgress mid with
  | some q => s.chargeGrant q
  | none => s

/-- An operation in progress is the arbiter's choice, in RUNNING (R21). -/
theorem operationInProgress_some {q : Requester} (h : s.operationInProgress mid = some q) :
    s.device = .running ∧ s.chosen = some q := by
  unfold State.operationInProgress at h
  split at h
  · next hrun => exact ⟨of_decide_eq_true (Bool.and_eq_true_iff.1 hrun).2, h⟩
  · cases h

/-- An operation that is no ring's moves neither the pointer nor the credit (R20). -/
theorem chargeInProgress_of_no_ring (h : ∀ r, s.operationInProgress mid ≠ some (.ring r)) :
    s.chargeInProgress mid = s := by
  unfold State.chargeInProgress
  split
  · next q hq =>
    cases q with
    | scan => exact s.chargeGrant_scan
    | admin => exact s.chargeGrant_admin
    | ring r => exact absurd hq (h r)
  · rfl

/-- A ring's operation leaves the pointer and the credit as its grant moved them (R20). -/
theorem chargeInProgress_of_ring {r : RingId} (h : s.operationInProgress mid = some (.ring r)) :
    ∃ k, s.chooseRing = some (r, k) ∧ s.chargeInProgress mid = { s with arbPointer := r, arbCredit := k } := by
  obtain ⟨-, -, k, hk⟩ := (s.chosen_ring r).1 (operationInProgress_some s mid h).2
  refine ⟨k, hk, ?_⟩
  rw [State.chargeInProgress, h]
  exact s.chargeGrant_ring r r k hk

theorem chargeInProgress_frame : ∃ p k, s.chargeInProgress mid = { s with arbPointer := p, arbCredit := k } := by
  unfold State.chargeInProgress
  split
  · exact s.chargeGrant_frame _
  · exact ⟨_, _, rfl⟩

/-! ### The entry to RESETTING (R164, R167) -/

theorem enterResetting_of_ne (h : s.device ≠ .resetting) : s.enterResetting mid =
    { (s.chargeInProgress mid).markReadsStale with device := .resetting, portOp := s.operationInProgress mid } :=
  if_neg h

/-- In RESETTING the reset in progress goes on (R164). -/
theorem enterResetting_of_resetting (h : s.device = .resetting) : s.enterResetting mid = s := if_pos h

/-- What the entry touches: the device state, the operation in progress, the marks of the reads, and the arbiter's
pointer and credit. -/
theorem enterResetting_frame : ∃ p k, s.enterResetting mid = { s with
    device := .resetting
    portOp := if s.device = .resetting then s.portOp else s.operationInProgress mid
    places := if s.device = .resetting then s.places else s.markReadsStale.places
    arbPointer := p
    arbCredit := k } := by
  by_cases h : s.device = .resetting
  · refine ⟨s.arbPointer, s.arbCredit, ?_⟩
    rw [enterResetting_of_resetting s mid h, if_pos h, if_pos h, ← h]
  · obtain ⟨p, k, hcharge⟩ := chargeInProgress_frame s mid
    refine ⟨p, k, ?_⟩
    rw [enterResetting_of_ne s mid h, hcharge, if_neg h, if_neg h]
    rfl

theorem enterResetting_keeps_arbiter
    (h : s.device = .resetting ∨ ∀ r, s.operationInProgress mid ≠ some (.ring r)) :
    (s.enterResetting mid).arbPointer = s.arbPointer ∧ (s.enterResetting mid).arbCredit = s.arbCredit := by
  by_cases hd : s.device = .resetting
  · rw [enterResetting_of_resetting s mid hd]
    exact ⟨rfl, rfl⟩
  · rw [enterResetting_of_ne s mid hd, chargeInProgress_of_no_ring s mid (h.resolve_left hd)]
    exact ⟨rfl, rfl⟩

theorem enterResetting_moves_arbiter {r : RingId} (h : s.operationInProgress mid = some (.ring r)) :
    ∃ k, s.chooseRing = some (r, k) ∧ (s.enterResetting mid).arbPointer = r ∧ (s.enterResetting mid).arbCredit = k := by
  have hd : s.device ≠ .resetting := by
    rw [(operationInProgress_some s mid h).1]
    nofun
  obtain ⟨k, hk, hcharge⟩ := chargeInProgress_of_ring s mid h
  refine ⟨k, hk, ?_⟩
  rw [enterResetting_of_ne s mid hd, hcharge]
  exact ⟨rfl, rfl⟩

theorem place_markReadsStale (p : PlaceId) :
    s.markReadsStale.place p = (s.place p).map (fun x => { x with deviceMark := false }) :=
  Vector.getElem_map ..

end

/-- A write of CONTROL with RESET set is the entry to RESETTING (R164, R186). -/
theorem exec_controlReset {s : State} {w : Word32} (mid : Bool) (hm : s.cfg.memorySpace = true)
    (hw : w.getLsbD 1 = true) : exec (.controlReset w mid) s = .next (s.enterResetting mid) :=
  congrArg _ ((access_enabled hm (fun s => s.controlWrite w mid)).trans (if_pos hw))

/-- Settles O5: the frame of the entry, and the arbiter by the operation in progress; a link reset adds to the entry
what it empties. -/
theorem resetEntriesStopTheBlocks : Obligations.ResetEntriesStopTheBlocks := by
  refine ⟨fun s w mid hm hw hd => ?_, fun s w mid hm hw hd => ?_, fun s mid => ?_⟩
  · refine ⟨_, exec_controlReset mid hm hw, ?_⟩
    have hkept := fun h => enterResetting_keeps_arbiter s mid (.inr h)
    have hmoved := fun r => enterResetting_moves_arbiter s mid (r := r)
    obtain ⟨p, k, hframe⟩ := enterResetting_frame s mid
    rw [if_neg hd, if_neg hd] at hframe
    rw [hframe] at hkept hmoved ⊢
    exact ⟨rfl, rfl, place_markReadsStale s, hkept, hmoved, rfl⟩
  · rw [exec_controlReset mid hm hw, enterResetting_of_resetting s mid hd]
  · have hkept := enterResetting_keeps_arbiter s mid
    have hmoved := fun r => enterResetting_moves_arbiter s mid (r := r)
    refine ⟨_, rfl, ?_⟩
    obtain ⟨p, k, hframe⟩ := enterResetting_frame s mid
    rw [hframe] at hkept hmoved ⊢
    exact ⟨rfl, rfl, rfl, fun v => Vector.getElem_replicate v.isLt, rfl, fun p => Vector.getElem_replicate p.isLt, rfl,
      hkept, hmoved, rfl⟩

/-! ### The reset values (R168, Table 8-4) -/

/-- What a function reset keeps is no part of Table 8-4, and each block takes the value of the reset state. -/
theorem resetBlocks_functionReset (s : State) : s.functionReset.ResetBlocks where
  device := rfl
  arbiter := ⟨rfl, rfl⟩
  entries := entry_reset
  watchLists := watchList_reset
  occupancies := occ_reset
  scan := ⟨rfl, rfl⟩
  time := ⟨rfl, rfl⟩
  rings := ring_reset
  lastChosen := rfl
  contexts r := by
    rw [ctx_functionReset]
    exact ⟨rfl, rfl, rfl, fun _ => rfl⟩
  crings := cring_reset
  registers := ⟨rfl, rfl, rfl, rfl, rfl⟩

theorem exec_resetValuesTaken {s : State} (hd : s.device = .resetting) (hp : s.portOp = none) :
    exec .resetValuesTaken s = .next s.functionReset := by
  change execResetValuesTaken s = _
  rw [execResetValuesTaken, if_pos (by rw [hd, hp]; rfl)]

/-- Settles O4: a power-on reset leaves a state that a function reset would not change. -/
theorem resetsGiveTheValuesOfTable84 : Obligations.ResetsGiveTheValuesOfTable84 := by
  refine ⟨fun s => ?_, fun s hd hp => ?_⟩
  · exact ⟨_, rfl, resetBlocks_functionReset { State.reset with pending := s.pending }, readByte_reset, rfl,
      fun p => Vector.getElem_replicate p.isLt, rfl, fun v => Vector.getElem_replicate v.isLt⟩
  · exact ⟨_, exec_resetValuesTaken hd hp, resetBlocks_functionReset s, fun _ => rfl, fun _ => rfl, rfl, rfl, rfl⟩

end Sys2Proof.Machine
end

section
/-! PROOFS. The bits of FAULT and the handing over of a message (R166, R174, R176): what setting and clearing a bit
does, and the order in which held messages take the free places. -/

namespace Sys2Proof.Machine

-- One proof at a time: each further thread of the compile takes 1 GB of the check's fixed memory.
set_option Elab.async false

/-! ### The bits of FAULT (R166) -/

theorem FaultBits.get_set (f : FaultBits) (b b' : FaultBit) :
    (f.set b).get b' = if b' = b then true else f.get b' := by
  cases b <;> cases b' <;> rfl

/-- A bit that goes from clear to set sends a message on vector 0, but not in RESETTING (R166). -/
theorem setFault_clear (s : State) {b : FaultBit} (h : s.fault.get b = false) : s.setFault b =
    if s.device = .resetting then { s with fault := s.fault.set b }
    else State.sendMessage { s with fault := s.fault.set b } 0 :=
  if_neg (Bool.eq_false_iff.1 h)

/-! ### The release of held messages (R174) -/

/-- While a place is free, a released vector holds no message, and the other vectors hold what they held. -/
theorem held_releaseVector (s : State) {v : VectorId} (hr : s.placeFree = true) (i : VectorId) :
    (s.releaseVector v).held[i] = if i = v then none else s.held[i] := by
  cases hv : s.held[v] with
  | none =>
    rw [s.releaseVector_none v hv]
    split
    · next hi => rw [hi, hv]
    · rfl
  | some m =>
    obtain ⟨q, hq⟩ := s.placeMessage_frame m
    have hheld : (s.releaseVector v).held = s.held.set v none := by
      rw [Fin.getElem_fin] at hv
      simp only [State.releaseVector, Fin.getElem_fin, hv, if_pos hr, hq]
      rfl
    rw [hheld, Fin.getElem_fin, Vector.getElem_set]
    simp only [Fin.ext_iff, eq_comm, Fin.getElem_fin]

/-- A release leaves configuration space alone, so a message is formed as before it (R176). -/
theorem messageFor_releaseVector (s : State) (u v : VectorId) : (s.releaseVector u).messageFor v = s.messageFor v := by
  obtain ⟨q, h, y, l, e, -⟩ := s.releaseVector_frame u
  rw [e]
  rfl

/-- Vectors that hold no message release none. -/
theorem foldl_releaseVector_none (s : State) (vs : List VectorId) (h : ∀ v ∈ vs, s.held[v] = none) :
    vs.foldl State.releaseVector s = s := by
  induction vs with
  | nil => rfl
  | cons v vs ih =>
    rw [List.foldl_cons, s.releaseVector_none v (h v List.mem_cons_self)]
    exact ih fun u hu => h u (List.mem_cons_of_mem _ hu)

/-- While a place is free, releasing every held message begins with the lowest vector that holds one. -/
theorem releaseHeld_lowest (s : State) (hr : s.placeFree = true) {v : VectorId}
    (hv : (List.finRange 5).find? (fun i => (s.held[i]).isSome) = some v) :
    (s.releaseVector v).releaseHeld = s.releaseHeld := by
  obtain ⟨-, lower, upper, hsplit, hlower⟩ := List.find?_eq_some_iff_append.1 hv
  have hnone : ∀ i ∈ lower, s.held[i] = none := fun i hi => by simpa using hlower i hi
  have hnone' : ∀ i ∈ lower, (s.releaseVector v).held[i] = none := fun i hi => by
    rw [held_releaseVector s hr, hnone i hi, ite_self]
  have hself : (s.releaseVector v).held[v] = none := (held_releaseVector s hr v).trans (if_pos rfl)
  rw [State.releaseHeld, State.releaseHeld, hsplit, List.foldl_append, List.foldl_append,
    foldl_releaseVector_none _ _ hnone, foldl_releaseVector_none _ _ hnone', List.foldl_cons, List.foldl_cons,
    State.releaseVector_none _ _ hself]

theorem exec_heldMessageRelease (s : State) {v : VectorId}
    (hv : (List.finRange 5).find? (fun i => (s.held[i]).isSome) = some v) :
    exec .heldMessageRelease s = .next (s.releaseVector v) := by
  change execHeldMessageRelease s = _
  rw [execHeldMessageRelease, hv]

/-- A message is handed over as it would be after the lowest held message has taken its place (R174, log entry 32). -/
theorem sendMessage_releaseVector (s : State) (v : VectorId) (hr : s.placeFree = true) {u : VectorId}
    (hu : (List.finRange 5).find? (fun i => (s.held[i]).isSome) = some u) :
    s.sendMessage v = (s.releaseVector u).sendMessage v := by
  rw [State.sendMessage, State.sendMessage, releaseHeld_lowest s hr hu, messageFor_releaseVector]

/-- Some vector that holds a message is the lowest. -/
theorem find?_held_of_held (s : State) (h : ∃ i : VectorId, s.held[i] ≠ none) :
    ∃ v, (List.finRange 5).find? (fun i => (s.held[i]).isSome) = some v := by
  obtain ⟨i, hi⟩ := h
  exact Option.isSome_iff_exists.1
    (List.find?_isSome.2 ⟨i, List.mem_finRange i, Option.isSome_iff_ne_none.2 hi⟩)

/-- While the queue is full a message is held at its vector, once, and nothing else changes (R174). -/
theorem sendMessage_full (s : State) (v : VectorId) (hf : 16 ≤ s.postq.length) :
    s.sendMessage v = { s with held := s.held.set v (some (s.held[v].getD (s.messageFor v))) } := by
  have hfull : s.placeFree = false := decide_eq_false (Nat.not_lt.2 hf)
  cases hv : s.held[v] with
  | none => exact s.sendMessage_held v hfull hv
  | some m =>
    rw [s.sendMessage_again v m hfull hv]
    have hset : s.held.set v s.held[v] = s.held := Vector.set_getElem_self v.isLt
    rw [Option.getD_some, ← hv, hset]

/-- Settles O7: the bits one by one, and the message by the queue and by what is held. -/
theorem faultBitsAndTheirMessage : Obligations.FaultBitsAndTheirMessage := by
  refine ⟨State.setFault_set, fun s b hb => ?_, fun s v => ⟨fun hr hn => ⟨fun hq he => ?_, fun hq => ?_⟩,
    fun hr hh => ?_, fun hf => ?_⟩, fun s w hm => ?_⟩
  · exact ⟨s.fault.set b, (s.fault.get_set b b).trans (if_pos rfl),
      fun b' h => (s.fault.get_set b b').trans (if_neg h), setFault_clear s hb⟩
  · rw [s.sendMessage_room v ((placeFree_iff s).2 hr) hn]
    simp [State.placeMessage, hq, he]
  · exact sendMessage_joins s v hr hn hq
  · obtain ⟨u, hu⟩ := find?_held_of_held s hh
    exact ⟨_, exec_heldMessageRelease s hu, sendMessage_releaseVector s v ((placeFree_iff s).2 hr) hu⟩
  · rw [sendMessage_full s v hf]
    refine ⟨Vector.getElem_set_self v.isLt, fun i hi => ?_, rfl⟩
    exact Vector.getElem_set_ne v.isLt i.isLt fun h => hi (Fin.ext h.symm)
  · exact ⟨s.faultWrite w, congrArg _ (access_enabled hm _), rfl, rfl, rfl, rfl⟩

end Sys2Proof.Machine
end

section
/-! PROOFS. The law of the posted-write queue (R174, R176): the few operations that hand over, remove or drop writes
keep it, and every other command leaves the queue and configuration space alone. -/

namespace Sys2Proof.Machine

-- One proof at a time: each further thread of the compile takes 1 GB of the check's fixed memory.
set_option Elab.async false

/-! ### Operations that keep the law -/

/-- The queue of `t` keeps the law that the queue of `s` meets. -/
def KeepsQueue (s t : State) : Prop := s.QueueLaw → t.QueueLaw

section
variable {s t u : State}

theorem KeepsQueue.after (k : KeepsQueue t u) (h : KeepsQueue s t) : KeepsQueue s u := fun hs => k (h hs)

/-- The law speaks of the queue and of configuration space alone. -/
theorem KeepsQueue.same (h : t.postq = s.postq ∧ t.cfg = s.cfg := by exact ⟨rfl, rfl⟩) : KeepsQueue s t := by
  obtain ⟨hq, hc⟩ := h
  rw [KeepsQueue, State.QueueLaw, State.QueueLaw, hq, hc]
  exact id

/-- An operation whose frame `u` holds neither of them. -/
theorem KeepsQueue.frame (ht : t = u) (hu : u.postq = s.postq ∧ u.cfg = s.cfg := by exact ⟨rfl, rfl⟩) :
    KeepsQueue s t := ht ▸ .same hu

theorem KeepsQueue.ite {c : Prop} [Decidable c] (ht : KeepsQueue s t) (hu : KeepsQueue s u) :
    KeepsQueue s (if c then t else u) := by
  split
  · exact ht
  · exact hu

/-- An empty queue meets the law. -/
theorem KeepsQueue.of_nil (h : t.postq = []) : KeepsQueue s t := fun _ => by
  rw [State.QueueLaw, h]
  exact ⟨Nat.zero_le _, nofun⟩

theorem keepsQueue_foldl {α : Type} (f : State → α → State) (h : ∀ s x, KeepsQueue s (f s x)) (xs : List α)
    (s : State) : KeepsQueue s (xs.foldl f s) := by
  induction xs generalizing s with
  | nil => exact .same
  | cons x xs ih => exact (ih _).after (h s x)

end

/-! ### Writes, messages and FAULT (R166, R174, R176) -/

theorem keepsQueue_sendMessage (s : State) (v : VectorId) : KeepsQueue s (s.sendMessage v) := by
  obtain ⟨_, _, _, _, -, h⟩ := s.sendMessage_frame v
  exact h

theorem keepsQueue_releaseVector (s : State) (v : VectorId) : KeepsQueue s (s.releaseVector v) := by
  obtain ⟨_, _, _, _, -, h⟩ := s.releaseVector_frame v
  exact h

theorem keepsQueue_setFault (s : State) (b : FaultBit) : KeepsQueue s (s.setFault b) := by
  obtain ⟨_, _, _, _, _, -, h⟩ := s.setFault_frame b
  exact h

/-- A write that is no message takes a free place. -/
theorem keepsQueue_handOver (s : State) {w : PostedWrite} (hr : s.placeFree = true) (hw : w.isMessage = false) :
    KeepsQueue s (s.handOver w) := fun hs => s.queueLaw_handOver w hs hr (.inl hw)

/-- Whatever configuration space becomes, the messages it disables are dropped from the head (log entry 38). -/
theorem queueLaw_dropMessages (s : State) (hs : s.postq.length ≤ 16) : s.dropMessages.QueueLaw := by
  obtain ⟨n, _, _, h, hhead⟩ := s.dropMessages_cases
  rw [h]
  exact ⟨(List.drop_sublist n s.postq).length_le.trans hs, hhead⟩

/-- Behind the head that leaves, the messages that may not stand at the head are dropped. -/
theorem keepsQueue_departed (s : State) {w : PostedWrite} {rest : List PostedWrite} (hq : s.postq = w :: rest) :
    KeepsQueue s (s.removeFirst (1 + droppedMessages s.cfg.msiEnable rest)) := by
  rintro ⟨hlen, -⟩
  obtain ⟨_, _, h⟩ := s.removeFirst_frame (1 + droppedMessages s.cfg.msiEnable rest)
  rw [h]
  refine ⟨(List.drop_sublist _ s.postq).length_le.trans hlen, fun hm => ?_⟩
  change s.cfg.msiEnable = false at hm
  change ∀ x, (s.postq.drop (1 + droppedMessages s.cfg.msiEnable rest)).head? = some x → x.isMessage = false
  rw [hq, hm, Nat.add_comm, List.drop_succ_cons]
  exact head_drop_droppedMessages rest

/-! ### Operations that leave the queue alone -/

theorem keepsQueue_grant {s g : State} {q : Requester} (h : s.grant q = some g) : KeepsQueue s g := by
  obtain ⟨_, _, _, h⟩ := s.grant_frame h
  exact .frame h

theorem keepsQueue_moveOn (s : State) (c : CellId) (n : Option EntryId) : KeepsQueue s (s.moveOn c n) := by
  obtain ⟨_, _, h⟩ := s.moveOn_frame c n
  exact .frame h

theorem keepsQueue_reportIf (s : State) (b : Bool) (c : CellId) : KeepsQueue s (s.reportIf b c) := by
  obtain ⟨_, _, h⟩ := s.reportIf_frame b c
  exact .frame h

theorem keepsQueue_freeEntry (s : State) (e : EntryId) : KeepsQueue s (s.freeEntry e) := by
  obtain ⟨_, _, _, h⟩ := s.freeEntry_frame e
  exact .frame h

theorem keepsQueue_finish (s : State) (r : RingId) (quiet : Bool) (o : Report) :
    KeepsQueue s (s.finish r quiet o) := by
  obtain ⟨_, _, h⟩ := s.finish_frame r quiet o
  exact .frame h

theorem keepsQueue_claimEnd (s : State) (st : Status) (e : EntryId) : KeepsQueue s (s.claimEnd st e) := by
  obtain ⟨_, _, _, _, _, _, h⟩ := s.claimEnd_frame st e
  exact .frame h

theorem keepsQueue_claimAll (s : State) (st : Status) (es : List EntryId) : KeepsQueue s (s.claimAll st es) := by
  obtain ⟨_, _, _, _, _, _, h⟩ := s.claimAll_frame st es
  exact .frame h

theorem keepsQueue_startRequest (s : State) (r : RingId) (q : Request) : KeepsQueue s (s.startRequest r q) := by
  obtain ⟨_, _, _, _, _, _, _, h⟩ := s.startRequest_frame r q
  exact .frame h

theorem keepsQueue_releaseFence (s : State) (r : RingId) : KeepsQueue s (s.releaseFence r) := by
  obtain ⟨_, _, _, _, _, _, _, h⟩ := s.releaseFence_frame r
  exact .frame h

theorem keepsQueue_deliver (s : State) (x : Source) : KeepsQueue s (s.deliver x) := by
  cases x with
  | entry e => exact keepsQueue_freeEntry s e
  | ring r => exact .same
  | admin => exact .same

theorem keepsQueue_discard (s : State) (x : Source) : KeepsQueue s (s.discard x) := by
  cases x with
  | entry e => exact keepsQueue_freeEntry s e
  | ring r => exact .same
  | admin => exact .same

/-! ### Requests and holds -/

theorem keepsQueue_fireAtArrival (s : State) (r : RingId) (h : Header) (act : Action) (w : CellValue) :
    KeepsQueue s (s.fireAtArrival r h act w) :=
  (keepsQueue_reportIf _ _ _).after ((keepsQueue_finish _ _ _ _).after .same)

theorem keepsQueue_armOrWait (s : State) (r : RingId) (q : Request) (act : Action) (k : Condition) (d : Option Time) :
    KeepsQueue s (s.armOrWait r q act k d) := by
  refine .ite (keepsQueue_finish _ _ _ _) ?_
  split <;> exact .same

theorem keepsQueue_testEntry (s : State) (c : CellId) (e : EntryId) (x : HoldEntry) :
    KeepsQueue s (s.testEntry c e x) := by
  have hfire : KeepsQueue s (s.fireEntry e x (readCell s.mem c)) :=
    (keepsQueue_reportIf _ _ _).after (.ite ((keepsQueue_freeEntry _ _).after .same) .same)
  exact .ite ((keepsQueue_releaseFence _ _).after ((keepsQueue_moveOn _ _ _).after hfire)) (keepsQueue_moveOn _ _ _)

theorem keepsQueue_takeRecord (s : State) (r : RingId) (x : Slot) (y : Option Slot) (n : Nat) :
    KeepsQueue s (s.takeRecord r x y n) := by
  unfold State.takeRecord
  dsimp only
  split
  · exact (keepsQueue_finish _ _ _ _).after .same
  · exact .ite .same ((keepsQueue_startRequest _ _ _).after .same)

theorem keepsQueue_takeKind (s : State) (r : RingId) (k : Option RequestKind) : KeepsQueue s (s.takeKind r k) := by
  unfold State.takeKind
  split
  · exact .ite (keepsQueue_takeRecord _ _ _ _ _) .same
  · exact .same

theorem keepsQueue_takeHold (s : State) (r : RingId) : KeepsQueue s (s.takeHold r) := by
  unfold State.takeHold
  split
  · exact .ite (keepsQueue_takeRecord _ _ _ _ _) .same
  · exact .same

/-! ### Reads -/

theorem keepsQueue_returnFault (s : State) (p : PlaceId) (x : Read) : KeepsQueue s (s.returnFault p x) := by
  obtain ⟨-, h⟩ | ⟨-, ⟨r, -, h⟩ | ⟨-, h⟩ | ⟨r, -, h⟩⟩ := s.returnFault_cases p x <;> rw [h]
  · exact .same
  · exact .ite .same .same
  · exact (keepsQueue_setFault _ _).after .same
  · unfold State.bulkFault
    split
    · exact (keepsQueue_finish _ _ _ _).after .same
    · exact .same

theorem keepsQueue_returnData (s : State) (p : PlaceId) (x : Read) (n : Nat) {f : State → State}
    (hf : ∀ t, KeepsQueue t (f t)) : KeepsQueue s (s.returnData p x n f) :=
  .ite .same (.ite (.ite ((hf _).after .same) .same) (keepsQueue_returnFault s p x))

theorem keepsQueue_bulkData (s : State) (r : RingId) (data : List CellValue) : KeepsQueue s (s.bulkData r data) := by
  unfold State.bulkData
  dsimp only
  split <;> exact .same

theorem keepsQueue_issueBulkRead (s : State) (p : PlaceId) (r : RingId) : KeepsQueue s (s.issueBulkRead p r) := by
  unfold State.issueBulkRead
  split
  · split <;> exact .same
  · exact .same

/-! ### Registers and device states -/

theorem keepsQueue_indexPost (s : State) (w : Word32) : KeepsQueue s (s.indexPost w) := by
  have post {c : Bool} {t : State} (ht : KeepsQueue s t) : KeepsQueue s (if c then t else s.setFault .postError) :=
    .ite ht (keepsQueue_setFault s _)
  refine .ite (keepsQueue_setFault s _) ?_
  dsimp only
  split
  · exact post .same
  · refine .ite (post .same) ?_
    split
    · exact post .same
    · exact .ite (post .same) (keepsQueue_setFault s _)

theorem keepsQueue_enterResetting (s : State) (mid : Bool) : KeepsQueue s (s.enterResetting mid) := by
  obtain ⟨_, _, h⟩ := enterResetting_frame s mid
  exact .frame h

theorem keepsQueue_controlWrite (s : State) (w : Word32) (mid : Bool) : KeepsQueue s (s.controlWrite w mid) :=
  .ite (keepsQueue_enterResetting s mid) (.ite (.ite .same (keepsQueue_setFault s _)) .same)

theorem keepsQueue_adminRegisterWrite (s : State) {f : State → State} (hf : KeepsQueue s (f s)) :
    KeepsQueue s (s.adminRegisterWrite f) := .ite hf (keepsQueue_setFault s _)

theorem keepsQueue_writeRegister (s : State) (offset size : Nat) (w : Word32) :
    KeepsQueue s (s.writeRegister offset size w) := by
  refine .ite .same ?_
  split
  · exact keepsQueue_controlWrite s w false
  · exact .same
  · exact keepsQueue_adminRegisterWrite s .same
  · exact keepsQueue_adminRegisterWrite s .same
  · exact keepsQueue_adminRegisterWrite s .same
  · exact keepsQueue_indexPost s w
  · exact .same

theorem keepsQueue_readRegister (s : State) (offset : Nat) (bytes : List Byte) :
    KeepsQueue s ((s.takeSnapshot offset).sendReply bytes) :=
  KeepsQueue.after (.ite .same .same) (.ite .same .same)

theorem keepsQueue_access (s : State) {f : State → State} (hf : KeepsQueue s (f s)) : KeepsQueue s (s.access f) :=
  .ite hf .same

/-! ### Records and bulk data (R121, R136) -/

theorem keepsQueue_writeRingRecord (s : State) (c : CRingId) (hr : s.placeFree = true) :
    KeepsQueue s (s.writeRingRecord c) := by
  unfold State.writeRingRecord
  dsimp only
  split
  · exact .same
  · split
    · exact .same
    · exact (keepsQueue_deliver _ _).after (KeepsQueue.after
        (.ite ((keepsQueue_sendMessage _ _).after .same) .same) (keepsQueue_handOver s hr rfl))

theorem keepsQueue_writeAdminRecord (s : State) (hr : s.placeFree = true) : KeepsQueue s s.writeAdminRecord := by
  unfold State.writeAdminRecord
  dsimp only
  split
  · exact .same
  · split
    · exact .same
    · exact (keepsQueue_deliver _ _).after
        ((keepsQueue_sendMessage _ _).after (KeepsQueue.after .same (keepsQueue_handOver s hr rfl)))

theorem keepsQueue_endBulkRead (s : State) (r : RingId) (h : Header) (n : Nat) (host : HostAddr)
    (hr : s.placeFree = true) : KeepsQueue s (s.endBulkRead r h n host) :=
  (keepsQueue_finish _ _ _ _).after (keepsQueue_handOver s hr rfl)

/-- In RUNNING the last cell of a BULK READ is granted only while its data write finds a place (R121, R174). -/
theorem placeFree_of_grant {s g : State} {r : RingId} {h : Header} {f n : Nat} {host : HostAddr}
    (hw : (s.ctx r).work = .running ⟨h, .bulkRead f n host⟩) (hg : s.grant (.ring r) = some g)
    (hlast : ¬ (s.ctx r).progress + 1 < n) (hd : s.device ≠ .resetting) : g.placeFree = true := by
  have hframe : g.placeFree = s.placeFree := by
    obtain ⟨_, _, _, h⟩ := s.grant_frame hg
    rw [h]
    rfl
  obtain ⟨-, hc, -⟩ | ⟨hres, -⟩ := s.grant_cases hg
  · obtain ⟨-, -, k, hk⟩ := (s.chosen_ring r).1 hc
    have hwork := s.chooseRing_hasWork hk
    simp only [State.hasWork, hw, hlast, decide_false, Bool.false_or, Bool.and_eq_true] at hwork
    obtain ⟨-, hbulk⟩ := hwork
    obtain ⟨hroom, -⟩ := s.bulkRoom_iff.1 hbulk
    exact hframe.trans (Bool.and_eq_true_iff.1 hroom).1
  · exact absurd hres hd

/-! ### Admin requests -/

theorem keepsQueue_takeAdmin (s : State) (k : Option AdminKind) {f : State → Slot → State}
    (hf : ∀ t x, KeepsQueue t (f t x)) : KeepsQueue s (s.takeAdmin k f) := by
  unfold State.takeAdmin
  split
  · exact .ite ((hf _ _).after .same) .same
  · exact .same

theorem keepsQueue_endAdmin (s : State) (x : Slot) (st : Status) (n : Nat) (v : Option CellValue) :
    KeepsQueue s (s.endAdmin x st n v) := .same

theorem keepsQueue_configureRing (s : State) (x : Slot) : KeepsQueue s (s.configureRing x) := by
  unfold State.configureRing
  split
  · exact .same
  · split
    · exact .same
    · exact .ite .same .same

theorem keepsQueue_configureCRing (s : State) (x : Slot) : KeepsQueue s (s.configureCRing x) := by
  unfold State.configureCRing
  split
  · exact .same
  · split
    · exact .same
    · exact .ite .same .same

theorem keepsQueue_startRing (s : State) (x : Slot) : KeepsQueue s (s.startRing x) := by
  unfold State.startRing
  split
  · exact .same
  · exact .ite .same .same

theorem keepsQueue_stopRing (s : State) (x : Slot) : KeepsQueue s (s.stopRing x) := by
  unfold State.stopRing
  split
  · exact .same
  · split <;> exact .same

theorem keepsQueue_abortContext (s : State) (r : RingId) : KeepsQueue s (s.abortContext r) := by
  have aborted (q : Request) (n : Nat) (m : Bool) : KeepsQueue s (s.abortRequest r q n m) :=
    (keepsQueue_finish _ _ _ _).after (.ite .same .same)
  unfold State.abortContext
  split
  · exact .same
  · exact aborted _ _ _
  · exact aborted _ _ _
  · exact aborted _ _ _
  · exact aborted _ _ _
  · exact .same

theorem keepsQueue_resetRing (s : State) (x : Slot) : KeepsQueue s (s.resetRing x) := by
  unfold State.resetRing
  split
  · exact .same
  · next r _ =>
    have htaken : KeepsQueue s (s.resetTaken r) :=
      (keepsQueue_abortContext _ r).after ((keepsQueue_claimAll _ _ _).after .same)
    exact .ite .same ((keepsQueue_endAdmin _ _ _ _ _).after htaken)

theorem keepsQueue_resetCRing (s : State) (x : Slot) : KeepsQueue s (s.resetCRing x) := by
  unfold State.resetCRing
  split
  · exact .same
  · next c _ =>
    have htaken : KeepsQueue s (s.resetCRingTaken c) :=
      KeepsQueue.after .same (keepsQueue_foldl _ keepsQueue_discard _ s)
    exact .ite .same ((keepsQueue_endAdmin _ _ _ _ _).after htaken)

theorem keepsQueue_cancelWaiting (s : State) (r : RingId) : KeepsQueue s (s.cancelWaiting r) := by
  unfold State.cancelWaiting
  split
  · exact keepsQueue_finish _ _ _ _
  · exact .same

theorem keepsQueue_cancelHoldsRequest (s : State) (x : Slot) : KeepsQueue s (s.cancelHoldsRequest x) := by
  unfold State.cancelHoldsRequest
  split
  · exact .same
  · next rs _ =>
    have hcancel : KeepsQueue s (s.cancelRings rs (slotHalf x 32) (slotHalf x 48)) :=
      (keepsQueue_foldl _ keepsQueue_releaseFence rs _).after
        ((keepsQueue_foldl _ keepsQueue_cancelWaiting _ _).after (keepsQueue_claimAll s _ _))
    exact (keepsQueue_endAdmin _ _ _ _ _).after hcancel

theorem keepsQueue_readStatusRequest (s : State) (x : Slot) : KeepsQueue s (s.readStatusRequest x) := by
  unfold State.readStatusRequest
  split <;> exact .same

/-! ### Every command -/

/-- Every next state of an outcome keeps the law of the queue. -/
def KeepsQueueTo (s : State) (o : Host.Outcome State Fault Refusal) : Prop := ∀ t, o = .next t → KeepsQueue s t

theorem keepsQueueTo_next {s t : State} (h : KeepsQueue s t) : KeepsQueueTo s (.next t) :=
  fun _ e => by cases e; exact h

theorem keepsQueueTo_same (s : State) : KeepsQueueTo s (.next s) := keepsQueueTo_next .same

theorem keepsQueueTo_fault (s : State) (x : Fault) : KeepsQueueTo s (.fault x) := fun _ e => by cases e

theorem keepsQueueTo_expiry (s : State) : KeepsQueueTo s (execExpiry s) := by
  refine keepsQueueTo_next ?_
  split
  · exact .same
  · split
    · exact .ite ((keepsQueue_releaseFence _ _).after (keepsQueue_claimEnd _ _ _)) .same
    · exact .same

theorem keepsQueueTo_waitEntryTimeout (r : RingId) (s : State) : KeepsQueueTo s (execWaitEntryTimeout r s) := by
  refine keepsQueueTo_next ?_
  split
  · exact .ite (keepsQueue_finish _ _ _ _) .same
  · exact .same

theorem keepsQueueTo_readTimeout (p : PlaceId) (s : State) : KeepsQueueTo s (execReadTimeout p s) := by
  refine keepsQueueTo_next ?_
  split
  · exact .ite (keepsQueue_returnFault s p _) .same
  · exact .same

theorem keepsQueueTo_fetchReadIssue (s : State) : KeepsQueueTo s (execFetchReadIssue s) := by
  refine keepsQueueTo_next (.ite ?_ .same)
  split
  · exact .same
  · refine .ite .same ?_
    split <;> exact .same

theorem keepsQueueTo_bulkDataReadIssue (s : State) : KeepsQueueTo s (execBulkDataReadIssue s) := by
  refine keepsQueueTo_next (.ite ?_ .same)
  split
  · exact keepsQueue_issueBulkRead s _ _
  · exact .same

/-- A fault, by the kind of read it answers (R105, R126, R163). -/
theorem keepsQueueTo_readFaults (s : State) : (∀ p, KeepsQueueTo s (execFetchReadFault p s)) ∧
    (∀ p, KeepsQueueTo s (execAdminFetchReadFault p s)) ∧ ∀ p, KeepsQueueTo s (execBulkDataFault p s) := by
  refine ⟨fun p => keepsQueueTo_next ?_, fun p => keepsQueueTo_next ?_, fun p => keepsQueueTo_next ?_⟩
  all_goals
    split
    · split
      · exact keepsQueue_returnFault s p _
      · exact .same
    · exact .same

theorem keepsQueueTo_fetchReadReturn (p : PlaceId) (data : List Slot) (s : State) :
    KeepsQueueTo s (execFetchReadReturn p data s) := by
  refine keepsQueueTo_next ?_
  split
  · split
    · exact keepsQueue_returnData s p _ _ fun _ => .ite .same .same
    · exact .same
  · exact .same

theorem keepsQueueTo_adminFetchReturn (p : PlaceId) (data : List Slot) (s : State) :
    KeepsQueueTo s (execAdminFetchReturn p data s) := by
  refine keepsQueueTo_next ?_
  split
  · split
    · exact keepsQueue_returnData s p _ _ fun _ => .same
    · exact .same
  · exact .same

theorem keepsQueueTo_bulkDataReturn (p : PlaceId) (data : List CellValue) (s : State) :
    KeepsQueueTo s (execBulkDataReturn p data s) := by
  refine keepsQueueTo_next ?_
  split
  · split
    · exact keepsQueue_returnData s p _ _ fun t => keepsQueue_bulkData t _ data
    · exact .same
  · exact .same

/-! The cell-port operations, under their grant. -/

theorem keepsQueueTo_updateOperation (r : RingId) (s : State) : KeepsQueueTo s (execUpdateOperation r s) := by
  refine keepsQueueTo_next ?_
  split
  · split
    · next hg => exact (keepsQueue_fireAtArrival _ _ _ _ 0).after (keepsQueue_grant hg)
    · exact .same
  · exact .same

theorem keepsQueueTo_holdArrival (r : RingId) (s : State) : KeepsQueueTo s (execHoldArrival r s) := by
  refine keepsQueueTo_next ?_
  split
  · split
    · next hg =>
      refine KeepsQueue.after ?_ (keepsQueue_grant hg)
      exact .ite (keepsQueue_fireAtArrival _ _ _ _ _)
        (.ite (keepsQueue_finish _ _ _ _) (keepsQueue_armOrWait _ _ _ _ _ _))
    · exact .same
  · exact .same

theorem keepsQueueTo_holdRetry (r : RingId) (s : State) : KeepsQueueTo s (execHoldRetry r s) := by
  refine keepsQueueTo_next ?_
  split
  · split
    · next hg =>
      refine KeepsQueue.after ?_ (keepsQueue_grant hg)
      exact .ite (keepsQueue_fireAtArrival _ _ _ _ _)
        (.ite (keepsQueue_finish _ _ _ _) (keepsQueue_armOrWait _ _ _ _ _ _))
    · exact .same
  · exact .same

theorem keepsQueueTo_scanStep (s : State) : KeepsQueueTo s (execScanStep s) := by
  refine keepsQueueTo_next ?_
  split
  · split
    · split
      · split
        · next hg => exact (keepsQueue_testEntry _ _ _ _).after (keepsQueue_grant hg)
        · exact .same
      · exact .same
    · exact .same
  · exact .same

/-- The data write of a BULK READ is handed over at its last cell, but in RESETTING (R121, R128). -/
theorem keepsQueueTo_bulkReadCell (r : RingId) (s : State) : KeepsQueueTo s (execBulkReadCell r s) := by
  unfold execBulkReadCell
  split
  · next hw =>
    dsimp only
    split
    · split
      · next hg =>
        split
        · exact keepsQueueTo_fault s _
        · refine keepsQueueTo_next (KeepsQueue.after ?_ (keepsQueue_grant hg))
          split
          · exact .same
          · next hlast =>
            simp only [Bool.or_eq_true, decide_eq_true_eq, not_or] at hlast
            obtain ⟨hlast, hd⟩ := hlast
            have hr := placeFree_of_grant hw hg hlast hd
            refine (keepsQueue_endBulkRead _ _ _ _ _ ?_).after .same
            exact hr
      · exact keepsQueueTo_same s
    · exact keepsQueueTo_same s
  · exact keepsQueueTo_same s

theorem keepsQueueTo_bulkWriteCell (r : RingId) (s : State) : KeepsQueueTo s (execBulkWriteCell r s) := by
  unfold execBulkWriteCell
  split
  · dsimp only
    split
    · split
      · next hg =>
        split
        · refine keepsQueueTo_next ((keepsQueue_reportIf _ _ _).after (KeepsQueue.after ?_ (keepsQueue_grant hg)))
          exact .ite .same ((keepsQueue_finish _ _ _ _).after .same)
        · exact keepsQueueTo_fault s _
      · exact keepsQueueTo_same s
    · exact keepsQueueTo_same s
  · exact keepsQueueTo_same s

theorem keepsQueueTo_clearCellsCell (s : State) : KeepsQueueTo s (execClearCellsCell s) := by
  unfold execClearCellsCell
  split
  · split
    · split
      · next hg =>
        split
        · refine keepsQueueTo_next ((keepsQueue_reportIf _ _ _).after (KeepsQueue.after ?_ (keepsQueue_grant hg)))
          exact .ite .same .same
        · exact keepsQueueTo_fault s _
      · exact keepsQueueTo_same s
    · exact keepsQueueTo_same s
  · exact keepsQueueTo_same s

theorem keepsQueueTo_fetchEventEntry (r : RingId) (s : State) : KeepsQueueTo s (execFetchEventEntry r s) := by
  refine keepsQueueTo_next ?_
  split
  · exact .ite ((keepsQueue_finish _ _ _ _).after .same) .same
  · exact .same

/-- A list that may write a record finds a place of the queue (R136, R174). -/
theorem keepsQueueTo_completionRecordWrite (l : ListId) (s : State) :
    KeepsQueueTo s (execCompletionRecordWrite l s) := by
  refine keepsQueueTo_next ?_
  split
  · next hmay =>
    cases l with
    | admin =>
      obtain ⟨-, -, -, hr, -⟩ := (canWrite_admin_iff s).1 (s.mayWrite_admin ▸ hmay)
      exact keepsQueue_writeAdminRecord s ((placeFree_iff s).2 hr)
    | ring c =>
      obtain ⟨hcan, -⟩ := (s.mayWrite_ring c).1 hmay
      obtain ⟨-, -, -, -, hr, -⟩ := (canWrite_ring_iff s c).1 hcan
      exact keepsQueue_writeRingRecord s c ((placeFree_iff s).2 hr)
  · exact .same

theorem keepsQueueTo_heldMessageRelease (s : State) : KeepsQueueTo s (execHeldMessageRelease s) := by
  refine keepsQueueTo_next ?_
  split
  · exact keepsQueue_releaseVector _ _
  · exact .same

theorem keepsQueueTo_postedWriteDepart (s : State) : KeepsQueueTo s (execPostedWriteDepart s) := by
  refine keepsQueueTo_next (.ite ?_ .same)
  split
  · exact .same
  · next hq => exact (keepsQueue_departed _ hq).after .same

theorem keepsQueueTo_configurationSpaceWrite (cfg : ConfigSpace) (s : State) :
    KeepsQueueTo s (execConfigurationSpaceWrite cfg s) := by
  refine keepsQueueTo_next fun hs => queueLaw_dropMessages _ ?_
  split <;> exact hs.1

theorem exec_keepsQueue (c : Instr) (s : State) : KeepsQueueTo s (exec c s) := by
  obtain ⟨hfetchFault, hadminFault, hbulkFault⟩ := keepsQueueTo_readFaults s
  cases c with
  | powerOnReset => exact keepsQueueTo_next (.of_nil rfl)
  | linkReset mid => exact keepsQueueTo_next (.of_nil rfl)
  | controlEnable w => exact keepsQueueTo_next (keepsQueue_access s (keepsQueue_controlWrite s w false))
  | controlReset w mid => exact keepsQueueTo_next (keepsQueue_access s (keepsQueue_controlWrite s w mid))
  | resetValuesTaken => exact keepsQueueTo_next (.ite .same .same)
  | faultWrite w => exact keepsQueueTo_next (keepsQueue_access s .same)
  | adminBaseLowWrite w => exact keepsQueueTo_next (keepsQueue_access s (keepsQueue_adminRegisterWrite s .same))
  | adminBaseHighWrite w => exact keepsQueueTo_next (keepsQueue_access s (keepsQueue_adminRegisterWrite s .same))
  | adminSizeWrite w => exact keepsQueueTo_next (keepsQueue_access s (keepsQueue_adminRegisterWrite s .same))
  | requestRingProducerPost w => exact keepsQueueTo_next (keepsQueue_access s (keepsQueue_indexPost s w))
  | adminProducerPost w => exact keepsQueueTo_next (keepsQueue_access s (keepsQueue_indexPost s w))
  | completionConsumerPost w => exact keepsQueueTo_next (keepsQueue_access s (keepsQueue_indexPost s w))
  | adminCompletionConsumerPost w => exact keepsQueueTo_next (keepsQueue_access s (keepsQueue_indexPost s w))
  | timeLowRead first count => exact keepsQueueTo_next (keepsQueue_access s (keepsQueue_readRegister s _ _))
  | registerWriteIgnored offset size w =>
    exact keepsQueueTo_next (keepsQueue_access s (keepsQueue_writeRegister s offset size w))
  | microsecondTick => exact keepsQueueTo_next .same
  | expiry => exact keepsQueueTo_expiry s
  | waitEntryTimeout r => exact keepsQueueTo_waitEntryTimeout r s
  | holdoffExpiry c => exact keepsQueueTo_next (.ite ((keepsQueue_sendMessage _ _).after .same) .same)
  | readTimeout p => exact keepsQueueTo_readTimeout p s
  | fetchReadIssue => exact keepsQueueTo_fetchReadIssue s
  | fetchReadReturn p data => exact keepsQueueTo_fetchReadReturn p data s
  | fetchReadFault p => exact hfetchFault p
  | adminFetchReturn p data => exact keepsQueueTo_adminFetchReturn p data s
  | adminFetchReadFault p => exact hadminFault p
  | bulkDataReadIssue => exact keepsQueueTo_bulkDataReadIssue s
  | bulkDataReturn p data => exact keepsQueueTo_bulkDataReturn p data s
  | bulkDataFault p => exact hbulkFault p
  | nop r => exact keepsQueueTo_next (keepsQueue_takeKind s r _)
  | unknownKind r => exact keepsQueueTo_next (keepsQueue_takeKind s r _)
  | update r => exact keepsQueueTo_next (keepsQueue_takeKind s r _)
  | updateOperation r => exact keepsQueueTo_updateOperation r s
  | hold r => exact keepsQueueTo_next (keepsQueue_takeHold s r)
  | holdArrival r => exact keepsQueueTo_holdArrival r s
  | holdRetry r => exact keepsQueueTo_holdRetry r s
  | scanStep => exact keepsQueueTo_scanStep s
  | bulkRead r => exact keepsQueueTo_next (keepsQueue_takeKind s r _)
  | bulkReadCell r => exact keepsQueueTo_bulkReadCell r s
  | bulkWrite r => exact keepsQueueTo_next (keepsQueue_takeKind s r _)
  | bulkWriteCell r => exact keepsQueueTo_bulkWriteCell r s
  | cancel r => exact keepsQueueTo_next (keepsQueue_takeKind s r _)
  | fetchEventEntry r => exact keepsQueueTo_fetchEventEntry r s
  | drainEnd r => exact keepsQueueTo_next (.ite .same .same)
  | completionRecordWrite l => exact keepsQueueTo_completionRecordWrite l s
  | heldMessageRelease => exact keepsQueueTo_heldMessageRelease s
  | postedWriteDepart => exact keepsQueueTo_postedWriteDepart s
  | adminNop => exact keepsQueueTo_next (keepsQueue_takeAdmin s _ fun _ _ => .same)
  | adminUnknownKind => exact keepsQueueTo_next (keepsQueue_takeAdmin s _ fun _ _ => .same)
  | configureRequestRing => exact keepsQueueTo_next (keepsQueue_takeAdmin s _ keepsQueue_configureRing)
  | configureCompletionRing => exact keepsQueueTo_next (keepsQueue_takeAdmin s _ keepsQueue_configureCRing)
  | startRing => exact keepsQueueTo_next (keepsQueue_takeAdmin s _ keepsQueue_startRing)
  | stopRing => exact keepsQueueTo_next (keepsQueue_takeAdmin s _ keepsQueue_stopRing)
  | resetRing => exact keepsQueueTo_next (keepsQueue_takeAdmin s _ keepsQueue_resetRing)
  | resetCompletionRing => exact keepsQueueTo_next (keepsQueue_takeAdmin s _ keepsQueue_resetCRing)
  | cancelHolds => exact keepsQueueTo_next (keepsQueue_takeAdmin s _ keepsQueue_cancelHoldsRequest)
  | clearCells => exact keepsQueueTo_next (keepsQueue_takeAdmin s _ fun _ _ => .ite .same .same)
  | clearCellsCell => exact keepsQueueTo_clearCellsCell s
  | readStatus => exact keepsQueueTo_next (keepsQueue_takeAdmin s _ keepsQueue_readStatusRequest)
  | configurationSpaceWrite cfg => exact keepsQueueTo_configurationSpaceWrite cfg s

/-- Settles O57: every command is composed of operations that keep the law. -/
theorem stepsKeepThePostedWriteQueue : Obligations.StepsKeepThePostedWriteQueue := by
  intro s t hs h
  unfold step at h
  split at h
  · cases h; exact hs
  · next c rest _ => exact exec_keepsQueue c _ t h hs

end Sys2Proof.Machine
end

section
/-! PROOFS. Stale returns (R171, R172): a return that is not taken releases its place, whatever it brings. -/

namespace Sys2Proof.Machine

-- One proof at a time: each further thread of the compile takes 1 GB of the check's fixed memory.
set_option Elab.async false

section
variable {s : State} {p : PlaceId} {x : Read}

/-- A return is not taken outside RUNNING, nor with a device mark or a generation that has passed (R171). -/
theorem returnTaken_of_stale (h : s.device ≠ .running ∨ x.deviceMark = false ∨
    ∃ r : RingId, (x.owner = .fetch r ∨ x.owner = .bulk r) ∧ x.ownerMark ≠ (s.ring r).generation) :
    s.returnTaken x = false := by
  obtain hd | hm | ⟨r, ho | ho, hg⟩ := h
  · simp [State.returnTaken, hd]
  · simp [State.returnTaken, State.isCurrent, hm]
  · simp [State.returnTaken, State.isCurrent, ho, hg]
  · simp [State.returnTaken, State.isCurrent, ho, hg]

variable (h : s.returnTaken x = false)
include h

theorem returnFault_stale : s.returnFault p x = s.setPlace p none := if_neg (Bool.eq_false_iff.1 h)

/-- Data in time, of the length that was asked for or of another. -/
theorem returnData_stale (ht : x.ticks < 50000) (n : Nat) (f : State → State) :
    s.returnData p x n f = s.setPlace p none := by
  by_cases hn : n = x.length
  · rw [State.returnData, if_neg (Nat.not_le.2 ht), if_pos hn, if_neg (Bool.eq_false_iff.1 h), State.release]
  · rw [returnData_wrongLength ht hn, returnFault_stale h]

end

/-- Settles O19: each path is a returned fault or returned data, and neither is taken. -/
theorem staleReturnsOnlyReleaseTheirPlace : Obligations.StaleReturnsOnlyReleaseTheirPlace := by
  intro s p x hp hstale
  have h := returnTaken_of_stale hstale
  refine ⟨fun ht => ?_, fun r ho => ⟨?_, fun data ht => ?_⟩, fun ho => ⟨?_, fun data ht => ?_⟩,
    fun r ho => ⟨?_, fun data ht => ?_⟩⟩
  · rw [exec_readTimeout hp, if_pos ht, returnFault_stale h]
  · rw [exec_fetchFault hp ho (.inl rfl), returnFault_stale h]
  · rw [exec_fetchReadReturn hp ho, returnData_stale h ht]
  · rw [exec_adminFetchFault hp ho (.inl rfl), returnFault_stale h]
  · rw [exec_adminFetchReturn hp ho, returnData_stale h ht]
  · rw [exec_bulkFault hp ho (.inl rfl), returnFault_stale h]
  · rw [exec_bulkDataReturn hp ho, returnData_stale h ht]

end Sys2Proof.Machine
end

section
/-! PROOFS. Register accesses that do nothing (R173, R177, R178): with memory space disabled, posts that are refused,
and writes that the window ignores. -/

namespace Sys2Proof.Machine

-- One proof at a time: each further thread of the compile takes 1 GB of the check's fixed memory.
set_option Elab.async false

theorem access_disabled {s : State} (h : s.cfg.memorySpace = false) (f : State → State) : s.access f = s :=
  if_neg (Bool.eq_false_iff.1 h)

/-- No post is taken outside RUNNING (R178). -/
theorem indexPost_not_running {s : State} (h : s.device ≠ .running) (w : Word32) :
    s.indexPost w = s.setFault .postError := if_pos h

/-- A selector that R178's table does not list sets POST_ERROR, whatever the device state. -/
theorem indexPost_unlisted (s : State) {w : Word32} (h9 : 9 ≤ (w.extractLsb' 16 8).toNat)
    (hsel : (w.extractLsb' 16 8).toNat ∉ [0x10, 0x11, 0x12, 0x13, 0x18]) :
    s.indexPost w = s.setFault .postError := by
  change 9 ≤ (Instr.postSelector w).toNat at h9
  change (Instr.postSelector w).toNat ∉ _ at hsel
  simp only [List.mem_cons, List.not_mem_nil, or_false, not_or] at hsel
  by_cases hd : s.device = .running
  · rw [State.indexPost, if_neg (not_not.2 hd)]
    dsimp only
    rw [dif_neg (by omega), if_neg (by omega), dif_neg (by omega), if_neg (by omega)]
  · exact indexPost_not_running hd w

/-- Short writes, and writes of read-only registers and of reserved offsets, are ignored (R177). -/
theorem writeRegister_ignored (s : State) {offset size : Nat} {w : Word32}
    (h : (Instr.registerWriteIgnored offset size w).wellFormed = true) : s.writeRegister offset size w = s := by
  unfold State.writeRegister
  split
  · rfl
  · next hsize =>
    have hign : Instr.ignoredOffset offset = true := by
      simp only [Instr.wellFormed, Bool.and_eq_true, Bool.or_eq_true, decide_eq_true_eq, beq_iff_eq] at h
      obtain ⟨-, hshort | ⟨-, hign⟩⟩ := h
      · omega
      · exact hign
    split
    case h_7 => rfl
    all_goals exact absurd hign (by decide)

/-- Settles O10: every register command is an access, and an ignored write leaves each register as it was. -/
theorem refusedAccesses : Obligations.RefusedAccesses := by
  refine ⟨fun s w mid first count offset size hm => ?_, fun s w hm hrefused => ?_, fun s offset size w hw => ?_⟩
  · have hno (f : State → State) : Host.Outcome.next (φ := Fault) (ρ := Refusal) (s.access f) = .next s :=
      congrArg _ (access_disabled hm f)
    simp only [List.forall_mem_cons]
    exact ⟨hno _, hno _, hno _, hno _, hno _, hno _, hno _, hno _, hno _, hno _, hno _, hno _, nofun⟩
  · have hpost : s.indexPost w = s.setFault .postError :=
      hrefused.elim (indexPost_not_running · w) fun ⟨h9, hsel⟩ => indexPost_unlisted s h9 hsel
    obtain ⟨hring, hadmin⟩ := exec_producerPost (w := w) hm
    obtain ⟨hcring, harea⟩ := exec_consumerPost (w := w) hm
    simp [hring, hadmin, hcring, harea, hpost]
  · cases hm : s.cfg.memorySpace with
    | false => exact congrArg _ (access_disabled hm _)
    | true => exact congrArg _ ((access_enabled hm _).trans (writeRegister_ignored s hw))

end Sys2Proof.Machine
end

section
/-! PROOFS. Register reads (R177, R179, R181): the bytes of a reply, the snapshot that a read of TIME LOW takes, and
what the reply waits for. -/

namespace Sys2Proof.Machine

-- One proof at a time: each further thread of the compile takes 1 GB of the check's fixed memory.
set_option Elab.async false

/-! ### The bytes of a register (R177) -/

theorem length_registerBytes (v : Word32) (first count : Nat) : (registerBytes v first count).length = count := by
  simp [registerBytes]

theorem getLsbD_registerBytes (v : Word32) (first : Nat) {count k i : Nat} (hk : k < count) (hi : i < 8) :
    ((registerBytes v first count).getD k 0).getLsbD i = v.getLsbD (8 * (first + k) + i) := by
  simp [registerBytes, hk, hi]

/-! ### What a reply waits for (R181) -/

theorem heldVectors_eq_nil (s : State) : s.heldVectors = [] ↔ ∀ v : VectorId, s.held[v] = none := by
  simp [State.heldVectors]

/-- While every reply waits, none is sent. -/
theorem flushReplies_waiting {s : State} (h : ∀ y ∈ s.replies, y.ready = false) : s.flushReplies = s := by
  have hkept : s.replies.filter (fun y => !y.ready) = s.replies := List.filter_eq_self.2 fun y hy => by rw [h y hy]; rfl
  have hsent : s.replies.filter Reply.ready = [] := List.filter_eq_nil_iff.2 fun y hy => by simp [h y hy]
  rw [State.flushReplies, hkept, hsent, List.map_nil, List.append_nil]

section
variable (s : State) (bytes : List Byte)

theorem sendReply_frame : ∃ y l, s.sendReply bytes = { s with replies := y, link := l } := by
  unfold State.sendReply
  split <;> exact ⟨_, _, rfl⟩

/-- With bus mastering disabled a reply is sent at once, past those that wait. -/
theorem sendReply_disabled (h : s.cfg.busMaster = false) :
    s.sendReply bytes = { s with link := s.link ++ [.reply bytes] } := if_neg (Bool.eq_false_iff.1 h)

theorem sendReply_enabled (h : s.cfg.busMaster = true) : s.sendReply bytes =
    State.flushReplies { s with replies := s.replies ++ [⟨bytes, s.postq.length, s.heldVectors⟩] } := if_pos h

/-- A reply does not depend on the snapshot. -/
theorem sendReply_snapshot (x : BitVec 16) : State.sendReply { s with timeSnapshot := x } bytes =
    { s.sendReply bytes with timeSnapshot := x } := by
  cases hb : s.cfg.busMaster with
  | false =>
    rw [sendReply_disabled s bytes hb]
    exact sendReply_disabled _ bytes hb
  | true =>
    rw [sendReply_enabled s bytes hb]
    exact sendReply_enabled _ bytes hb

/-- With nothing ahead of it a reply is sent at once. -/
theorem sendReply_nothing_ahead (hq : s.postq = []) (hh : ∀ v : VectorId, s.held[v] = none) (hr : s.replies = []) :
    s.sendReply bytes = { s with link := s.link ++ [.reply bytes] } := by
  cases hb : s.cfg.busMaster with
  | false => exact sendReply_disabled s bytes hb
  | true => simp [sendReply_enabled s bytes hb, State.flushReplies, Reply.ready, hq, (heldVectors_eq_nil s).2 hh, hr]

/-- Behind a posted write or a held message a reply waits. -/
theorem sendReply_behind (hb : s.cfg.busMaster = true)
    (hahead : s.postq ≠ [] ∨ ∃ v : VectorId, s.held[v] ≠ none) (hr : ∀ y ∈ s.replies, y.ready = false) :
    s.sendReply bytes = { s with replies := s.replies ++ [⟨bytes, s.postq.length, s.heldVectors⟩] } := by
  have hnew : Reply.ready ⟨bytes, s.postq.length, s.heldVectors⟩ = false := by
    obtain hq | ⟨v, hv⟩ := hahead
    · simp [Reply.ready, hq]
    · have hheld : s.heldVectors ≠ [] := fun h => hv ((heldVectors_eq_nil s).1 h v)
      simp [Reply.ready, hheld]
  rw [sendReply_enabled s bytes hb]
  refine flushReplies_waiting fun y hy => ?_
  obtain hy | hy := List.mem_append.1 hy
  · exact hr y hy
  · rw [List.mem_singleton.1 hy, hnew]

end

/-! ### The snapshot (R179) -/

theorem takeSnapshot_timeLow (s : State) :
    s.takeSnapshot 0x20 = { s with timeSnapshot := s.timeBase.extractLsb' 32 16 } := if_pos rfl

theorem takeSnapshot_other (s : State) {offset : Nat} (h : offset ≠ 0x20) : s.takeSnapshot offset = s := if_neg h

theorem sendReply_takeSnapshot (s : State) (offset : Nat) (bytes : List Byte) :
    (s.takeSnapshot offset).sendReply bytes =
      { s.sendReply bytes with timeSnapshot := (s.takeSnapshot offset).timeSnapshot } := by
  by_cases ho : offset = 0x20
  · rw [ho, takeSnapshot_timeLow, sendReply_snapshot]
  · obtain ⟨_, _, hframe⟩ := sendReply_frame s bytes
    rw [takeSnapshot_other s ho, hframe]

/-- The high 16 bits of the time base. -/
theorem toNat_timeBase_high (t : Time) : (t.extractLsb' 32 16).toNat = t.toNat / 2 ^ 32 := by
  rw [BitVec.extractLsb'_toNat, Nat.shiftRight_eq_div_pow, Nat.mod_eq_of_lt]
  omega

/-- TIME LOW reads the low 32 bits of the time base (R179). -/
theorem getLsbD_timeLow (s : State) {i : Nat} (hi : i < 32) :
    (s.readRegister 0x20).getLsbD i = s.timeBase.getLsbD i := by
  simp [State.readRegister, State.now32, hi]

/-- A read names its register by the offset of its first byte. -/
theorem exec_timeLowRead {s : State} (hm : s.cfg.memorySpace = true) {offset first : Nat} (ho : offset % 4 = 0)
    (hf : first < 4) (count : Nat) : exec (.timeLowRead (offset + first) count) s =
      .next { s.sendReply (registerBytes (s.readRegister offset) first count) with
        timeSnapshot := (s.takeSnapshot offset).timeSnapshot } := by
  have hmod : (offset + first) % 4 = first := by omega
  change execTimeLowRead (offset + first) count s = _
  rw [execTimeLowRead, access_enabled hm, hmod, Nat.add_sub_cancel, sendReply_takeSnapshot]

/-- Settles O11: the bytes and the snapshot are those of the register, and the reply is sent or waits. -/
theorem timeLowReadTakesTheSnapshot : Obligations.TimeLowReadTakesTheSnapshot := by
  intro s offset first count hm ho hf hc
  have hexec := exec_timeLowRead hm ho hf count
  have hlength := length_registerBytes (s.readRegister offset) first count
  have hbits (k : Nat) (hk : k < count) (i : Nat) (hi : i < 8) :=
    getLsbD_registerBytes (s.readRegister offset) first hk hi
  generalize registerBytes (s.readRegister offset) first count = bytes at hexec hlength hbits
  refine ⟨_, bytes, hexec, hlength, hbits, fun h => ⟨?_, fun k hk i hi => ?_⟩, fun h => ?_, fun h => ?_,
    fun hb hahead hr => ?_, ?_⟩
  · rw [h, takeSnapshot_timeLow, toNat_timeBase_high]
  · rw [hbits k hk i hi, h, getLsbD_timeLow s (by omega)]
  · rw [takeSnapshot_other s h]
  · obtain hb | ⟨hq, hh, hr⟩ := h
    · rw [sendReply_disabled s bytes hb]
      exact ⟨rfl, rfl⟩
    · rw [sendReply_nothing_ahead s bytes hq hh hr]
      exact ⟨rfl, rfl⟩
  · rw [sendReply_behind s bytes hb hahead hr]
    exact ⟨rfl, rfl⟩
  · obtain ⟨_, _, hframe⟩ := sendReply_frame s bytes
    rw [hframe]

end Sys2Proof.Machine
end

section
/-! PROOFS. The posted-write path (R173 to R176, R181): what leaves the queue, what is dropped at its head, which
replies follow, and how a held message takes a free place. -/

namespace Sys2Proof.Machine

-- One proof at a time: each further thread of the compile takes 1 GB of the check's fixed memory.
set_option Elab.async false

/-- A reply is ready when nothing is ahead of it (R181). -/
theorem ready_eq : Reply.ready = fun y : Reply => decide (y.ahead = 0 ∧ y.heldAhead = []) :=
  funext fun y => by cases h : y.heldAhead <;> simp [Reply.ready, h]

/-! ### Departures (R173, R174) -/

section
variable {s : State}

/-- The head leaves, and with it the messages behind it that would be dropped at the head (R176). -/
theorem exec_postedWriteDepart (hb : s.cfg.busMaster = true) {w : PostedWrite} {rest : List PostedWrite}
    (hq : s.postq = w :: rest) : exec .postedWriteDepart s =
      .next (State.removeFirst { s with link := s.link ++ w.departs s.cfg.msiEnable }
        (1 + droppedMessages s.cfg.msiEnable rest)) := by
  change execPostedWriteDepart s = _
  simp [execPostedWriteDepart, hb, hq]

theorem exec_postedWriteDepart_idle (h : s.cfg.busMaster = false ∨ s.postq = []) :
    exec .postedWriteDepart s = .next s := by
  change execPostedWriteDepart s = _
  obtain h | h := h <;> simp [execPostedWriteDepart, h]

/-- A message that leaves while messages are disabled is dropped (R176). -/
theorem departs_dropped (m : Message) : (PostedWrite.message m).departs false = [] := rfl

theorem departs_sent {w : PostedWrite} {e : Bool} (h : (∀ m, w ≠ .message m) ∨ e = true) :
    w.departs e = [.posted w] := by
  obtain h | rfl := h
  · cases w with
    | message m => exact absurd rfl (h m)
    | record a b => rfl
    | bulkData a c => rfl
  · simp [PostedWrite.departs]

/-! ### Held messages (R174) -/

theorem exec_heldMessageRelease_idle (h : 16 ≤ s.postq.length ∨ ∀ i : VectorId, s.held[i] = none) :
    exec .heldMessageRelease s = .next s := by
  change execHeldMessageRelease s = _
  unfold execHeldMessageRelease
  split
  · next v _ =>
    obtain hf | hn := h
    · rw [s.releaseVector_full v (decide_eq_false (Nat.not_lt.2 hf))]
    · rw [s.releaseVector_none v (hn v)]
  · rfl

/-- The lowest vector that holds a message is the one that no lower one precedes. -/
theorem find?_held_of_lowest {v : VectorId} {m : Message} (hv : s.held[v] = some m)
    (hlow : ∀ i : VectorId, i < v → s.held[i] = none) :
    (List.finRange 5).find? (fun i => (s.held[i]).isSome) = some v := by
  rw [List.find?_eq_some_iff_getElem]
  refine ⟨by rw [hv]; rfl, v.val, by rw [List.length_finRange]; exact v.isLt, List.getElem_finRange _,
    fun j hj => ?_⟩
  rw [List.getElem_finRange, hlow _ hj]
  rfl

/-- A message takes a place at the tail, or is dropped at the head (R176). -/
theorem placeMessage_eq (s : State) (m : Message) : s.placeMessage m =
    { s with postq := if s.postq = [] ∧ s.cfg.msiEnable = false then [] else s.postq ++ [.message m] } := by
  obtain ⟨hq, hm, h⟩ | ⟨hne, h⟩ := s.placeMessage_cases m
  · rw [h, if_pos ⟨hq, hm⟩, ← hq]
  · rw [h, if_neg]
    · rfl
    · rintro ⟨hq, hm⟩
      exact hne.elim (· hq) fun he => Bool.false_ne_true (hm.symm.trans he)

/-- The replies behind a released message wait for the queue as it then is (R181). -/
theorem heldReleased_eq (y : Reply) (v : VectorId) (n : Nat) : y.heldReleased v n =
    if v ∈ y.heldAhead then { y with heldAhead := y.heldAhead.erase v, ahead := n } else y := by
  simp [Reply.heldReleased]

theorem releaseVector_held (hr : s.placeFree = true) {v : VectorId} {m : Message} (hv : s.held[v] = some m) :
    s.releaseVector v = State.flushReplies { s with
      postq := (s.placeMessage m).postq
      held := s.held.set v none
      replies := s.replies.map (fun y => y.heldReleased v (s.placeMessage m).postq.length) } := by
  obtain ⟨q, hq⟩ := s.placeMessage_frame m
  rw [Fin.getElem_fin] at hv
  simp only [State.releaseVector, Fin.getElem_fin, hv, if_pos hr, hq]

/-! ### Configuration space (R173, R176) -/

theorem exec_configurationSpaceWrite_enabled {cfg : ConfigSpace} (h : cfg.busMaster = true) :
    exec (.configurationSpaceWrite cfg) s = .next (State.dropMessages { s with cfg := cfg }) := by
  change execConfigurationSpaceWrite cfg s = _
  rw [execConfigurationSpaceWrite, if_pos h]

/-- With bus mastering disabled every waiting reply is sent at once (log entry 17). -/
theorem exec_configurationSpaceWrite_disabled {cfg : ConfigSpace} (h : cfg.busMaster = false) :
    exec (.configurationSpaceWrite cfg) s =
      .next (State.dropMessages (State.sendAllReplies { s with cfg := cfg })) := by
  change execConfigurationSpaceWrite cfg s = _
  rw [execConfigurationSpaceWrite, if_neg (Bool.eq_false_iff.1 h)]

theorem dropMessages_of_no_reply (h : s.replies = []) : s.dropMessages =
    { s with postq := s.postq.drop (droppedMessages s.cfg.msiEnable s.postq) } := by
  unfold State.dropMessages
  dsimp only
  split
  · next hn => rw [hn, List.drop_zero]
  · simp [State.removeFirst, State.flushReplies, h]

end

/-- Settles O37: departures, releases and writes of configuration space, each by its own rule. -/
theorem postedWritesLeaveInOrder : Obligations.PostedWritesLeaveInOrder := by
  unfold Obligations.PostedWritesLeaveInOrder
  rw [← ready_eq]
  refine ⟨fun s w rest hb hq => ?_, fun s h => exec_postedWriteDepart_idle h, fun s v m hroom hv hlow => ?_,
    fun s h => exec_heldMessageRelease_idle h, fun s cfg => ⟨fun hb hn => ?_, fun hb hn => ?_, fun hb => ?_⟩⟩
  · refine ⟨w.departs s.cfg.msiEnable, ?_, ?_, departs_sent⟩
    · have hdrop (n : Nat) : s.postq.drop (1 + n) = rest.drop n := by rw [hq, Nat.add_comm, List.drop_succ_cons]
      rw [exec_postedWriteDepart hb hq]
      simp only [State.removeFirst, hdrop]
      rfl
    · rintro ⟨m, rfl, he⟩
      rw [he, departs_dropped]
  · have hr := (placeFree_iff s).2 hroom
    have ht := releaseVector_held hr hv
    simp only [heldReleased_eq, placeMessage_eq] at ht
    refine ⟨_, exec_heldMessageRelease s (find?_held_of_lowest hv hlow), congrArg State.postq ht,
      held_releaseVector s hr, congrArg State.replies ht, congrArg State.link ht, ?_⟩
    rw [ht]
    rfl
  · rw [exec_configurationSpaceWrite_enabled hb]
    exact congrArg _ (if_pos hn)
  · rw [exec_configurationSpaceWrite_enabled hb]
    exact congrArg _ (if_neg hn)
  · rw [exec_configurationSpaceWrite_disabled hb, dropMessages_of_no_reply rfl]
    rfl

end Sys2Proof.Machine
end

section
/-! PROOFS. The step by the queue (log entries 1 and 3): an equation for each shape of the queue. -/

namespace Sys2Proof.Machine

-- One proof at a time: each further thread of the compile takes 1 GB of the check's fixed memory.
set_option Elab.async false

/-- The command at the front is carried out, and is itself off the queue when it is. -/
theorem step_of_pending_cons {s : State} {c : Instr} {rest : List Instr} (h : s.pending = c :: rest) :
    step s = exec c { s with pending := rest } := by
  rw [step, h]

theorem step_of_pending_nil {s : State} (h : s.pending = []) : step s = .next s := by
  rw [step, h]

/-- Settles O1, by the two shapes of the queue. -/
theorem stepTakesTheFrontCommand : Obligations.StepTakesTheFrontCommand :=
  ⟨fun _ _ _ h => step_of_pending_cons h, fun _ h => step_of_pending_nil h⟩

end Sys2Proof.Machine
end
